-- ==== Sys2Proof/Word.lean ====
section
/-! DEFINITION. The word types of the block: a pad register, a command word and a write-data word are 32 bits wide
(00_scope.md R8, R13; 30_encoding.md R80). -/

namespace Sys2Proof

/-- A 32-bit word: a pad register, `CMD`, `WDATA` or `RDATA` (R8 `REG_W = 32`, R80, R90). -/
abbrev Word := BitVec 32

/-- A byte is 8 bits (20_memory.md R50). -/
abbrev Byte := BitVec 8

end Sys2Proof
end

