-- ==== Sys2Proof/Syntax.lean ====
section
/-! DEFINITION. The commands the host can present: the pair of words (30_encoding.md R80) and the thirteen operations
(00_scope.md R3), one constructor per row of the opcode table. -/

namespace Sys2Proof

/-- One command as presented: the command word `CMD` and the write-data word `WDATA` (30_encoding.md R80). -/
structure Command where
  cmd : Word
  wdata : Word
  deriving DecidableEq, Repr

/-- The thirteen operations. `dom` is `DOM` (8 bits, invalid numbers included: R84), `pin` is `PIN` (16 bits, indices
past the window included: R85), `fn` is `FN` (4 bits: R83), `value` is `WDATA` (R86). -/
inductive Instr where
  | init
  | deinit
  | selectFunction (dom : BitVec 8) (pin : BitVec 16) (fn : BitVec 4)
  | selectInput (dom : BitVec 8) (pin : BitVec 16)
  | selectOutput (dom : BitVec 8) (pin : BitVec 16)
  | selectInout (dom : BitVec 8) (pin : BitVec 16)
  | selectHiz (dom : BitVec 8) (pin : BitVec 16)
  | selectPullUp (dom : BitVec 8) (pin : BitVec 16)
  | selectPullDown (dom : BitVec 8) (pin : BitVec 16)
  | selectPullDisable (dom : BitVec 8) (pin : BitVec 16)
  | getRaw (dom : BitVec 8) (pin : BitVec 16)
  | setRaw (dom : BitVec 8) (pin : BitVec 16) (value : Word)
  | dump (dom : BitVec 8) (pin : BitVec 16)
  deriving DecidableEq, Repr

/-- The `DOM` and `PIN` operands of the eleven pin commands; INIT and DEINIT have none (30_encoding.md R93). -/
def Instr.pinOperands : Instr → Option (BitVec 8 × BitVec 16)
  | .init => none
  | .deinit => none
  | .selectFunction dom pin _ => some (dom, pin)
  | .selectInput dom pin => some (dom, pin)
  | .selectOutput dom pin => some (dom, pin)
  | .selectInout dom pin => some (dom, pin)
  | .selectHiz dom pin => some (dom, pin)
  | .selectPullUp dom pin => some (dom, pin)
  | .selectPullDown dom pin => some (dom, pin)
  | .selectPullDisable dom pin => some (dom, pin)
  | .getRaw dom pin => some (dom, pin)
  | .setRaw dom pin _ => some (dom, pin)
  | .dump dom pin => some (dom, pin)

end Sys2Proof
end

