-- ==== Sys2Proof/WellFormed.lean ====
section
/-! DEFINITION. Which command words are legal, written from the list of illegal words of 30_encoding.md R94 (the decoder is
written from the opcode map R87; that the two agree is a statement). The operand types of `Instr` are exactly the field
widths of R81, so every `Instr` is well-formed as it stands: a function code above 15 or a negative pin-index cannot be
written (R83, R85). -/

namespace Sys2Proof

/-- The `OP` field as a number, bits 31:28 (R81). -/
def Command.opNumber (c : Command) : Nat := (c.cmd >>> 28).toNat

/-- R94, first case: `OP` is none of 0x0, 0xE, 0xF. -/
def Command.opAssigned (c : Command) : Bool :=
  !(c.opNumber == 0 || c.opNumber == 14 || c.opNumber == 15)

/-- R94, second case: with `OP` in 0x4 to 0xD, `FN` (bits 27:24) is zero. -/
def Command.functionFieldLegal (c : Command) : Bool :=
  !(decide (4 ≤ c.opNumber) && decide (c.opNumber ≤ 13)) || (c.cmd >>> 24) &&& 0xF#32 == 0#32

/-- R94, third case: with `OP` in 0x1, 0x2, bits 27:0 are zero. -/
def Command.lifecycleBitsLegal (c : Command) : Bool :=
  !(c.opNumber == 1 || c.opNumber == 2) || c.cmd <<< 4 == 0#32

/-- A legal command word: none of the three cases of R94 holds. `WDATA` makes no command illegal (R86). -/
def Command.wellFormed (c : Command) : Bool :=
  c.opAssigned && c.functionFieldLegal && c.lifecycleBitsLegal

end Sys2Proof
end

