-- ==== Sys2Proof/Decode.lean ====
section
/-! DEFINITION. The command decoder, from the opcode map of 30_encoding.md R87 and the fields of R81, total on every command
and rejecting by name (R89, R94), and the encoder from the patterns of the same rules. -/

namespace Sys2Proof

/-- `OP`, bits 31:28 (R81). -/
def fieldOp (w : Word) : BitVec 4 := w.extractLsb' 28 4
/-- `FN`, bits 27:24 (R81). -/
def fieldFn (w : Word) : BitVec 4 := w.extractLsb' 24 4
/-- `DOM`, bits 23:16 (R81). -/
def fieldDom (w : Word) : BitVec 8 := w.extractLsb' 16 8
/-- `PIN`, bits 15:0 (R81). -/
def fieldPin (w : Word) : BitVec 16 := w.extractLsb' 0 16

/-- The thirteen mnemonics of the opcode map (R87). -/
inductive Op where
  | init | deinit | selectFunction | selectInput | selectOutput | selectInout | selectHiz
  | selectPullUp | selectPullDown | selectPullDisable | getRaw | setRaw | dump
  deriving DecidableEq, Repr

/-- One row of the opcode map (R87): a word `w` selects the row when `w & mask = match`. -/
structure Row where
  op : Op
  mask : Word
  pattern : Word
  deriving DecidableEq, Repr

/-- R87: `w & mask = match`. -/
def Row.accepts (r : Row) (w : Word) : Bool := w &&& r.mask == r.pattern

/-- The opcode map, row by row as 30_encoding.md R87 prints it. -/
def opcodeRows : List Row :=
  [⟨.init, 0xFFFFFFFF#32, 0x10000000#32⟩, ⟨.deinit, 0xFFFFFFFF#32, 0x20000000#32⟩,
   ⟨.selectFunction, 0xF0000000#32, 0x30000000#32⟩] ++
  [⟨.selectInput, 0xFF000000#32, 0x40000000#32⟩, ⟨.selectOutput, 0xFF000000#32, 0x50000000#32⟩,
   ⟨.selectInout, 0xFF000000#32, 0x60000000#32⟩, ⟨.selectHiz, 0xFF000000#32, 0x70000000#32⟩] ++
  [⟨.selectPullUp, 0xFF000000#32, 0x80000000#32⟩, ⟨.selectPullDown, 0xFF000000#32, 0x90000000#32⟩,
   ⟨.selectPullDisable, 0xFF000000#32, 0xA0000000#32⟩] ++
  [⟨.getRaw, 0xFF000000#32, 0xB0000000#32⟩, ⟨.setRaw, 0xFF000000#32, 0xC0000000#32⟩,
   ⟨.dump, 0xFF000000#32, 0xD0000000#32⟩]

/-- The operands of each operation, taken whole from their fields; nothing is extended, scaled or gathered (R88). -/
def operandsOf (op : Op) (c : Command) : Instr :=
  match op with
  | .init => .init
  | .deinit => .deinit
  | .selectFunction => .selectFunction (fieldDom c.cmd) (fieldPin c.cmd) (fieldFn c.cmd)
  | .selectInput => .selectInput (fieldDom c.cmd) (fieldPin c.cmd)
  | .selectOutput => .selectOutput (fieldDom c.cmd) (fieldPin c.cmd)
  | .selectInout => .selectInout (fieldDom c.cmd) (fieldPin c.cmd)
  | .selectHiz => .selectHiz (fieldDom c.cmd) (fieldPin c.cmd)
  | .selectPullUp => .selectPullUp (fieldDom c.cmd) (fieldPin c.cmd)
  | .selectPullDown => .selectPullDown (fieldDom c.cmd) (fieldPin c.cmd)
  | .selectPullDisable => .selectPullDisable (fieldDom c.cmd) (fieldPin c.cmd)
  | .getRaw => .getRaw (fieldDom c.cmd) (fieldPin c.cmd)
  | .setRaw => .setRaw (fieldDom c.cmd) (fieldPin c.cmd) c.wdata
  | .dump => .dump (fieldDom c.cmd) (fieldPin c.cmd)

/-- Why a command word is illegal: the three cases of R94. -/
inductive IllegalWord where
  /-- `OP` is 0x0, 0xE or 0xF. -/
  | reservedOpcode (op : BitVec 4)
  /-- `OP` is 0x4 to 0xD and `FN` is not zero. -/
  | functionFieldNotZero (op fn : BitVec 4)
  /-- `OP` is 0x1 or 0x2 and one of bits 27:0 is not zero. -/
  | operandBitsNotZero (op : BitVec 4) (low : BitVec 28)
  deriving DecidableEq, Repr

/-- The name of the rejection of a word no row accepts (R94). -/
def illegalReason (w : Word) : IllegalWord :=
  if fieldOp w = 0x1#4 ∨ fieldOp w = 0x2#4 then .operandBitsNotZero (fieldOp w) (w.extractLsb' 0 28)
  else if fieldOp w = 0x0#4 ∨ fieldOp w = 0xE#4 ∨ fieldOp w = 0xF#4 then .reservedOpcode (fieldOp w)
  else .functionFieldNotZero (fieldOp w) (fieldFn w)

/-- R87: the operation of the first row that accepts `CMD`, with its operands; no row: illegal. Reads no state (R89). -/
def decode (c : Command) : Except IllegalWord Instr :=
  match opcodeRows.find? (fun r => r.accepts c.cmd) with
  | some r => .ok (operandsOf r.op c)
  | none => .error (illegalReason c.cmd)

/-- The command word with the four fields of R81, most significant first: `OP FN DOM PIN`. -/
def commandWord (op fn : BitVec 4) (dom : BitVec 8) (pin : BitVec 16) : Word := op ++ fn ++ dom ++ pin

/-- The command of an instruction, from the `OP` values of R82 and the patterns of R87. `WDATA` carries SET_RAW's value
(R86) and is written as zero for the commands that do not look at it. -/
def encode : Instr → Command
  | .init => ⟨commandWord 0x1#4 0#4 0#8 0#16, 0#32⟩
  | .deinit => ⟨commandWord 0x2#4 0#4 0#8 0#16, 0#32⟩
  | .selectFunction dom pin fn => ⟨commandWord 0x3#4 fn dom pin, 0#32⟩
  | .selectInput dom pin => ⟨commandWord 0x4#4 0#4 dom pin, 0#32⟩
  | .selectOutput dom pin => ⟨commandWord 0x5#4 0#4 dom pin, 0#32⟩
  | .selectInout dom pin => ⟨commandWord 0x6#4 0#4 dom pin, 0#32⟩
  | .selectHiz dom pin => ⟨commandWord 0x7#4 0#4 dom pin, 0#32⟩
  | .selectPullUp dom pin => ⟨commandWord 0x8#4 0#4 dom pin, 0#32⟩
  | .selectPullDown dom pin => ⟨commandWord 0x9#4 0#4 dom pin, 0#32⟩
  | .selectPullDisable dom pin => ⟨commandWord 0xA#4 0#4 dom pin, 0#32⟩
  | .getRaw dom pin => ⟨commandWord 0xB#4 0#4 dom pin, 0#32⟩
  | .setRaw dom pin value => ⟨commandWord 0xC#4 0#4 dom pin, value⟩
  | .dump dom pin => ⟨commandWord 0xD#4 0#4 dom pin, 0#32⟩

/-- The opcode-table row an instruction belongs to (R87). -/
def opOf : Instr → Op
  | .init => .init
  | .deinit => .deinit
  | .selectFunction _ _ _ => .selectFunction
  | .selectInput _ _ => .selectInput
  | .selectOutput _ _ => .selectOutput
  | .selectInout _ _ => .selectInout
  | .selectHiz _ _ => .selectHiz
  | .selectPullUp _ _ => .selectPullUp
  | .selectPullDown _ _ => .selectPullDown
  | .selectPullDisable _ _ => .selectPullDisable
  | .getRaw _ _ => .getRaw
  | .setRaw _ _ _ => .setRaw
  | .dump _ _ => .dump

/-- A command from the bits of the opcode table: `CMD` is the first word, `WDATA` the word after it, and every bit from
`nbits` up is zero. -/
def commandOfTableBits (nbits w : Nat) : Command :=
  ⟨BitVec.ofNat 32 (w % 2 ^ nbits), BitVec.ofNat 32 ((w % 2 ^ nbits) >>> 32)⟩

/-- The instruction this decoder reads from a word of the opcode table; `none` where it refuses. -/
def decodeTableWord (nbits w : Nat) : Option Instr :=
  match decode (commandOfTableBits nbits w) with
  | .ok i => some i
  | .error _ => none

end Sys2Proof
end

