-- ==== Sys2Proof/Config.lean ====
section
/-! DEFINITION. What is fixed for the life of an instance (00_scope.md R8 to R11; 70_reset_and_hazards.md R203), and the
values the spec leaves open, as constants without a body. -/

namespace Sys2Proof

/-- The two register domains (00_scope.md R8; 10_state.md R20). -/
inductive Domain where
  | main
  | wakeup
  deriving DecidableEq, Repr

/-- `COUNT[d]`: 195 registers in Main, 70 in Wakeup (00_scope.md R8). -/
def Domain.count : Domain → Nat
  | .main => 195
  | .wakeup => 70

/-- The parameters the source names and does not give (00_scope.md R9). -/
structure ChipParams where
  /-- `PHYS_BASE[Main]`. -/
  physMain : Nat := 0
  /-- `PHYS_BASE[Wakeup]`. -/
  physWakeup : Nat := 4096
  /-- `PAGE_SIZE`, in bytes. -/
  pageSize : Nat := 4096
  /-- `ADDR_W`, in bits. -/
  addrW : Nat := 32
  deriving DecidableEq, Repr

/-- `PHYS_BASE[d]` (00_scope.md R9). -/
def ChipParams.physBase (c : ChipParams) : Domain → Nat
  | .main => c.physMain
  | .wakeup => c.physWakeup

/-- Constraints (b), (c) and (e) of 00_scope.md R11 for one window of `count` registers at `base`. -/
abbrev ChipParams.WindowFits (c : ChipParams) (base count : Nat) : Prop :=
  base % 4 = 0 ∧ base + 4 * count ≤ 2 ^ c.addrW ∧
    (base &&& (c.pageSize - 1)) + 4 * count ≤ (4 * count + c.pageSize - 1) / c.pageSize * c.pageSize

/-- The constraints of 00_scope.md R11: (a) the page size is a power of two, (b), (c), (e) both windows fit, (d) the
windows are disjoint. DESIGN CHOICE (log 17): nothing more is asked of the page size, so 1 and 2 are admitted, although
20_memory.md R62 takes a page to be a multiple of 4 bytes. -/
abbrev ChipParams.Valid (c : ChipParams) : Prop :=
  2 ^ c.pageSize.log2 = c.pageSize ∧ c.WindowFits c.physMain 195 ∧ c.WindowFits c.physWakeup 70 ∧
    (c.physMain + 4 * 195 ≤ c.physWakeup ∨ c.physWakeup + 4 * 70 ≤ c.physMain)

/-- A chip: parameters together with the proof that they satisfy R11. Parameters that break a constraint make no
`Chip`, so they are given no meaning (00_scope.md R11). -/
structure Chip where
  params : ChipParams := {}
  valid : params.Valid := by decide
  deriving DecidableEq, Repr, Inhabited

/-- R11: "a configuration that breaks one is refused by the model, not given a meaning". -/
def Chip.ofParams? (c : ChipParams) : Option Chip :=
  if h : c.Valid then some ⟨c, h⟩ else none

/-- FREE VALUE (log 18): the chip the instance really sits on, whose `PHYS_BASE[d]` are where the pad registers are. -/
opaque Config.trueChip : Chip

/-- The premise of 70_reset_and_hazards.md R207 about a configuration: the integrator supplied the true `PHYS_BASE[d]`. The
block cannot check it, and no command does; what commands are said to do to pad registers is said under it (log 18). -/
def Chip.BasesCorrect (c : Chip) : Prop := ∀ d : Domain, c.params.physBase d = Config.trueChip.params.physBase d

/-- The configuration of one instance: the chip it sits on and `STRICT_DOMAIN` (00_scope.md R9, R10). -/
structure Config where
  chip : Chip
  /-- `STRICT_DOMAIN`: `true` is 1 (00_scope.md R10). -/
  strictDomain : Bool
  deriving DecidableEq, Repr

/-- FREE VALUE (log 1): the open parameters of the shipped instance, `PHYS_BASE`, `PAGE_SIZE`, `ADDR_W` (R9). -/
opaque Config.freeChip : Chip

/-- FREE VALUE (log 2): `RESET_PAD[d][p]`, the contents of each pad register before the first command (R9, 10_state.md R43). -/
opaque Config.freeResetPad : Domain → Nat → Word

/-- FREE VALUE (log 3): `ENV_DEV_OK`, drawn at the n-th unscripted INIT (30_encoding.md R101). -/
opaque Config.freeDevOk : Nat → Bool

/-- FREE VALUE (log 3): `ENV_MAP_OK[d]`, drawn at the n-th unscripted INIT (30_encoding.md R101). -/
opaque Config.freeMapOk : Nat → Domain → Bool

/-- FREE VALUE (log 3): `ENV_MAP_BASE[d]`, drawn at the n-th unscripted INIT (30_encoding.md R101). -/
opaque Config.freeMapBase : Nat → Domain → Nat

/-- FREE VALUE (log 4): what `MAP_BASE[d] + (PHYS_BASE[d] & page_mask)` is as an `ADDR_W`-bit address when the sum
needs more than `ADDR_W` bits, a function of the two summands (20_memory.md R75 states the sum only where it does not wrap). -/
opaque Config.freeRegBase : Nat → Nat → Nat

/-- The configuration the reset state carries: the open chip, and `STRICT_DOMAIN` at its default 0 (00_scope.md R10). -/
def Config.shipped : Config := { chip := Config.freeChip, strictDomain := false }

end Sys2Proof
end

