-- ==== Sys2Proof/Machine/State.lean ====
section
/-! DEFINITION. The state of the block: the pad registers and the mapping handle the spec gives it (10_state.md), its
parameters, its inputs (commands of the host, answers of the environment) and the three observable sequences of
00_scope.md R17; and the state after reset. -/

namespace Sys2Proof.Machine

open Sys2Proof

/-- The two register files `PAD[Main]` and `PAD[Wakeup]`, 195 and 70 registers of 32 bits (10_state.md R20). -/
structure Pads where
  main : Vector Word (Domain.count .main)
  wakeup : Vector Word (Domain.count .wakeup)
  deriving DecidableEq, Repr

/-- A valid pin address: a domain and an index within its register count (10_state.md R21, 20_memory.md R54). -/
structure PinAddr where
  dom : Domain
  idx : Fin dom.count
  deriving DecidableEq, Repr

/-- `LIFE` (10_state.md R33). -/
inductive Life where
  | uninitialized
  | initialized
  deriving DecidableEq, Repr

/-- One domain's part of the mapping handle: `MAPPED[d]`, `MAP_BASE[d]`, `REG_BASE[d]` (10_state.md R35 to R37). -/
structure Window where
  mapped : Bool
  mapBase : Option Nat
  regBase : Option Nat
  deriving DecidableEq, Repr

/-- Nothing mapped: `MAPPED[d] = 0`, both addresses `none`. -/
def Window.none : Window := { mapped := false, mapBase := Option.none, regBase := Option.none }

/-- What the environment answers to one INIT (30_encoding.md R101). -/
structure EnvInputs where
  /-- `ENV_DEV_OK`. -/
  devOk : Bool
  /-- `ENV_MAP_OK[Main]`. -/
  mapOkMain : Bool
  /-- `ENV_MAP_OK[Wakeup]`. -/
  mapOkWakeup : Bool
  /-- `ENV_MAP_BASE[Main]`. -/
  mapBaseMain : Nat
  /-- `ENV_MAP_BASE[Wakeup]`. -/
  mapBaseWakeup : Nat
  deriving DecidableEq, Repr

/-- The six faults of the block (60_exceptions.md R170). Each is a status of a response, never a stop of the machine. -/
inductive FaultStatus where
  | resourceError
  | invalidAddress
  | addressError
  | notInitialized
  | alreadyInitialized
  | illegalCommand
  deriving DecidableEq, Repr

/-- `STATUS` of a response (30_encoding.md R91); its 4-bit code is `statusCode`. -/
inductive Status where
  | ok
  | raised (f : FaultStatus)
  deriving DecidableEq, Repr

/-- One response `(STATUS, RVALID, RDATA)`: `rdata = none` is `RVALID = 0`, and then there is no `RDATA`
(30_encoding.md R90, "make the response a sum type"). -/
structure Response where
  status : Status
  rdata : Option Word
  deriving DecidableEq, Repr

/-- One event of the access trace: `Rd(d, p, v)` or `Wr(d, p, v)` (00_scope.md R15, R17). -/
inductive AccessEvent where
  | rd (a : PinAddr) (v : Word)
  | wr (a : PinAddr) (v : Word)
  deriving DecidableEq, Repr

/-- A set of resources, a subset of `{dev, Main, Wakeup}` (40_lifecycle.md R113). -/
structure Held where
  dev : Bool
  main : Bool
  wakeup : Bool
  deriving DecidableEq, Repr

/-- One event of the resource trace: `Open`, `Map(d)` or `Release(S)` (00_scope.md R17, 40_lifecycle.md R111, R113). -/
inductive ResourceEvent where
  | opened
  | mapped (d : Domain)
  | released (set : Held)
  deriving DecidableEq, Repr

/-- The reasons an access primitive has no meaning. No command reaches one: the faults of the block itself are statuses
of responses (`FaultStatus`). -/
inductive Fault where
  /-- `memRead` or `memWrite` of a size other than 4 bytes (20_memory.md R59, R61). Safe: no step raises it. -/
  | accessSize (n : Nat)
  /-- `memRead` or `memWrite` at an address that is no register's `PA(d, p)` (20_memory.md R59). Safe: no step raises it. -/
  | noSuchAddress (addr : Nat)
  /-- `memRead` or `memWrite` while `LIFE = Uninitialized`: no window is mapped (20_memory.md R56). Safe: no step raises it. -/
  | windowNotMapped
  deriving DecidableEq, Repr

/-- The reasons the model gives no meaning. -/
inductive Refusal where
  /-- An arm of `exec` whose instruction has no meaning yet; safe. No arm answers it: every instruction has its meaning. -/
  | notModelled (mnemonic : String)
  deriving DecidableEq, Repr

/-- The whole state. Everything is plain data. -/
structure State where
  /-- The parameters of 00_scope.md R9 and R10, carried along unchanged (70_reset_and_hazards.md R203; log 1). -/
  cfg : Config
  /-- `PAD[d][p]` (10_state.md R20). -/
  pads : Pads
  /-- `LIFE` (10_state.md R33). -/
  life : Life
  /-- `DEV_OPEN` (10_state.md R34). -/
  devOpen : Bool
  /-- `MAPPED[Main]`, `MAP_BASE[Main]`, `REG_BASE[Main]` (10_state.md R35 to R37). -/
  winMain : Window
  /-- `MAPPED[Wakeup]`, `MAP_BASE[Wakeup]`, `REG_BASE[Wakeup]` (10_state.md R35 to R37). -/
  winWakeup : Window
  /-- Input: the commands the host has yet to present, the next one first (30_encoding.md R80; log 5). -/
  host : List Command
  /-- Input: scripted answers of the environment, one per INIT that samples them, the next first (30_encoding.md R101; log 3). -/
  env : List EnvInputs
  /-- The model's counter of free draws of the environment inputs (log 3). -/
  draws : Nat
  /-- Output: the responses given so far, oldest first (00_scope.md R17). -/
  responses : List Response
  /-- Output: the access trace, oldest first (00_scope.md R17). -/
  access : List AccessEvent
  /-- Output: the resource trace, oldest first (00_scope.md R17). -/
  resource : List ResourceEvent
  deriving DecidableEq, Repr

/-- The 265 pad registers before the first command: `RESET_PAD` (10_state.md R43; log 2). -/
def Pads.reset : Pads where
  main := Vector.ofFn fun p => Config.freeResetPad .main p.val
  wakeup := Vector.ofFn fun p => Config.freeResetPad .wakeup p.val

/-- The state in which a fresh instance starts (10_state.md R42, R43; 70_reset_and_hazards.md R200 to R202): nothing held, the
pads at `RESET_PAD`, empty traces, no command presented. -/
def State.reset : State where
  cfg := Config.shipped
  pads := Pads.reset
  life := .uninitialized
  devOpen := false
  winMain := Window.none
  winWakeup := Window.none
  host := []
  env := []
  draws := 0
  responses := []
  access := []
  resource := []

end Sys2Proof.Machine
end

