-- ==== Sys2Proof/Machine/Flags.lean ====
section
/-! DEFINITION. The block has no flags and no condition codes (10_state.md R41). What stands in their place: the fields of a
pad register (10_state.md R22 to R31) and the codes of a response (30_encoding.md R91, 45_dump.md R163). -/

namespace Sys2Proof.Machine

open Sys2Proof

/-- Mask of `MUX`, bits 3:0 (10_state.md R22). -/
def maskMux : Word := 0x0000000F#32
/-- Mask of `PULL_EN_N`, bit 16, 0 = enabled (10_state.md R22). -/
def maskPullEnN : Word := 0x00010000#32
/-- Mask of `PULL_SEL`, bit 17, 1 = up (10_state.md R22). -/
def maskPullSel : Word := 0x00020000#32
/-- Mask of `IN_EN`, bit 18, 1 = enabled (10_state.md R22). -/
def maskInEn : Word := 0x00040000#32
/-- Mask of `OUT_EN_N`, bit 21, 0 = enabled (10_state.md R22). -/
def maskOutEnN : Word := 0x00200000#32
/-- Mask of the 23 bits the source does not define (10_state.md R28). -/
def maskUndefined : Word := 0xFFD8FFF0#32

/-- The field update of one cycle: bits outside `mask` kept, bits inside replaced (20_memory.md R58, R76). -/
def fieldUpdate (t mask val : Word) : Word := (t &&& ~~~mask) ||| (val &&& mask)

/-- The word GET_RAW answers for an invalid domain (44_raw_access.md R150). -/
def sentinel : Word := 0xFFFFFFFF#32

/-- The four directions of 10_state.md R30. -/
inductive Direction where
  | input
  | output
  | inout
  | hiz
  deriving DecidableEq, Repr

/-- The three pull states of 10_state.md R31. -/
inductive PullState where
  | disabled
  | up
  | down
  deriving DecidableEq, Repr

/-- The record DUMP answers (45_dump.md R160). -/
structure DumpRecord where
  dir : Direction
  pull : PullState
  mux : BitVec 4
  deriving DecidableEq, Repr

/-- `Direction(v)`, from `IN_EN` (bit 18) and `OUT_EN_N` (bit 21) (45_dump.md R161). -/
def directionOf (v : Word) : Direction :=
  match v.getLsbD 18, v.getLsbD 21 with
  | true, true => .input
  | false, false => .output
  | true, false => .inout
  | false, true => .hiz

/-- `Pull(v)`, from `PULL_EN_N` (bit 16) and `PULL_SEL` (bit 17) (45_dump.md R162). -/
def pullOf (v : Word) : PullState :=
  match v.getLsbD 16, v.getLsbD 17 with
  | true, _ => .disabled
  | false, true => .up
  | false, false => .down

/-- The record of a register word (45_dump.md R160 to R162). -/
def dumpRecord (v : Word) : DumpRecord := ⟨directionOf v, pullOf v, v.extractLsb' 0 4⟩

/-- The 2-bit code of a direction (45_dump.md R163). -/
def directionCode : Direction → BitVec 2
  | .input => 0#2
  | .output => 1#2
  | .inout => 2#2
  | .hiz => 3#2

/-- The 2-bit code of a pull state; 3 is never produced (45_dump.md R163). -/
def pullCode : PullState → BitVec 2
  | .disabled => 0#2
  | .up => 1#2
  | .down => 2#2

/-- `RDATA` of a dump: bits 31:8 zero, 7:6 pull, 5:4 dir, 3:0 mux (45_dump.md R163). -/
def dumpWord (r : DumpRecord) : Word := 0#24 ++ pullCode r.pull ++ directionCode r.dir ++ r.mux

/-- The 4-bit `STATUS` code (30_encoding.md R91). -/
def statusCode : Status → BitVec 4
  | .ok => 0x0#4
  | .raised .resourceError => 0x1#4
  | .raised .invalidAddress => 0x2#4
  | .raised .addressError => 0x3#4
  | .raised .notInitialized => 0x4#4
  | .raised .alreadyInitialized => 0x5#4
  | .raised .illegalCommand => 0x6#4

/-- The 1-bit `RVALID` (30_encoding.md R90). -/
def rvalid (r : Response) : BitVec 1 := if r.rdata.isSome then 1#1 else 0#1

end Sys2Proof.Machine
end

