-- ==== Sys2Proof/Machine/Operands.lean ====
section
/-! DEFINITION. Operand forms: the pin address (domain decode and pin bound check), the registers it names, and the
addresses of a register in the physical and in the mapped view (20_memory.md R50 to R66). The block has one addressing
mode, register index within a domain (44_raw_access.md R154). -/

namespace Sys2Proof.Machine

open Sys2Proof

/-- Domain decode: 0 is Main, 1 is Wakeup, every other number is an invalid domain (20_memory.md R54, 30_encoding.md R84). -/
def domainOf? (dom : BitVec 8) : Option Domain :=
  if dom = 0x00#8 then some .main else if dom = 0x01#8 then some .wakeup else none

/-- Pin bound check: `PIN < COUNT[d]` (20_memory.md R55). -/
def pinOf? (d : Domain) (pin : BitVec 16) : Option PinAddr :=
  if h : pin.toNat < d.count then some ⟨d, ⟨pin.toNat, h⟩⟩ else none

/-- `PAD[d][p]` (10_state.md R21). -/
def readPad (P : Pads) : PinAddr → Word
  | ⟨.main, p⟩ => P.main[p]
  | ⟨.wakeup, p⟩ => P.wakeup[p]

/-- `PAD[d][p] <- v`, all 32 bits (00_scope.md R14). -/
def writePad (P : Pads) : PinAddr → Word → Pads
  | ⟨.main, p⟩, v => { P with main := P.main.set p v }
  | ⟨.wakeup, p⟩, v => { P with wakeup := P.wakeup.set p v }

/-- `page_mask = PAGE_SIZE - 1` (20_memory.md R64). -/
def pageMask (c : Chip) : Nat := c.params.pageSize - 1

/-- The in-page offset `PHYS_BASE[d] & page_mask` (20_memory.md R64). -/
def pageOffset (c : Chip) (d : Domain) : Nat := c.params.physBase d &&& pageMask c

/-- `MAP_TARGET[d] = PHYS_BASE[d] & ~page_mask`, on `ADDR_W`-bit addresses (20_memory.md R64). -/
def mapTarget (c : Chip) (d : Domain) : Nat :=
  (BitVec.ofNat c.params.addrW (c.params.physBase d) &&& ~~~(BitVec.ofNat c.params.addrW (pageMask c))).toNat

/-- `MAP_LEN[d] = COUNT[d] * 4` (20_memory.md R64). -/
def mapLen (d : Domain) : Nat := d.count * 4

/-- `MAP_SPAN[d]`: the length rounded up to whole pages (20_memory.md R64). -/
def mapSpan (c : Chip) (d : Domain) : Nat :=
  (mapLen d + c.params.pageSize - 1) / c.params.pageSize * c.params.pageSize

/-- `REG_BASE[d] = MAP_BASE[d] + (PHYS_BASE[d] & page_mask)` (20_memory.md R64). The spec states the sum where it is an
`ADDR_W`-bit address (R75); where it is not, the register holds a free `ADDR_W`-bit value (log 4). -/
def regBaseOf (c : Chip) (d : Domain) (mapBase : Nat) : Nat :=
  if mapBase + pageOffset c d < 2 ^ c.params.addrW then mapBase + pageOffset c d
  else Config.freeRegBase mapBase (pageOffset c d) % 2 ^ c.params.addrW

/-- The physical address `PA(d, p) = PHYS_BASE[d] + 4 * p` (20_memory.md R51). -/
def physAddr (c : Chip) (a : PinAddr) : Nat := c.params.physBase a.dom + 4 * a.idx.val

/-- The mapped address `VA(d, p) = REG_BASE[d] + 4 * p`, from the value `REG_BASE[d]` holds (20_memory.md R51). DESIGN CHOICE
(log 16): the sum of natural numbers, not reduced where it needs more than `ADDR_W` bits. -/
def mappedAddr (regBase : Nat) (a : PinAddr) : Nat := regBase + 4 * a.idx.val

/-- The translation of one window's mapping: `MAP_BASE[d] + k` reaches `MAP_TARGET[d] + k` for `k < MAP_SPAN[d]`
(20_memory.md R65). -/
def translateMapped (c : Chip) (d : Domain) (mapBase va : Nat) : Option Nat :=
  if mapBase ≤ va ∧ va < mapBase + mapSpan c d then some (mapTarget c d + (va - mapBase)) else none

/-- The register whose four bytes hold the physical byte address `addr`, in one window. -/
def registerIn? (c : Chip) (d : Domain) (addr : Nat) : Option PinAddr :=
  if h : c.params.physBase d ≤ addr ∧ (addr - c.params.physBase d) / 4 < d.count then
    some ⟨d, ⟨(addr - c.params.physBase d) / 4, h.2⟩⟩
  else none

/-- The register whose four bytes hold the physical byte address `addr`; `none` outside the two windows (20_memory.md R50,
R53). -/
def registerAt? (c : Chip) (addr : Nat) : Option PinAddr :=
  match registerIn? c .main addr with
  | some a => some a
  | none => registerIn? c .wakeup addr

/-- Byte `k` of a register, bits 7:0 first (20_memory.md R60, little-endian). -/
def byteOf (v : Word) (k : Nat) : Byte := v.extractLsb' (8 * k) 8

/-- The byte view of the two windows: the byte at a physical address, `none` where no register is (20_memory.md R60). -/
def readByte? (c : Chip) (P : Pads) (addr : Nat) : Option Byte :=
  match registerAt? c addr with
  | some a => some (byteOf (readPad P a) (addr - physAddr c a))
  | none => none

end Sys2Proof.Machine
end

