-- ==== Sys2Proof/Machine/Ops.lean ====
section
/-! DEFINITION. The named operations every meaning is built from: the state updates, the access primitives (20_memory.md R56
to R59), responding and raising a fault (00_scope.md R16), the checks of a pin command (30_encoding.md R93), acquiring and
releasing resources (40_lifecycle.md R111, R113), sampling the environment (R101), and taking the next command. -/

namespace Sys2Proof.Machine

open Sys2Proof

/-! ### State updates -/

/-- Give one response (00_scope.md R16, R17). -/
def respond (r : Response) (s : State) : State := { s with responses := s.responses ++ [r] }

/-- Append an event to the access trace (00_scope.md R17). -/
def emitAccess (e : AccessEvent) (s : State) : State := { s with access := s.access ++ [e] }

/-- Append an event to the resource trace (00_scope.md R17). -/
def emitResource (e : ResourceEvent) (s : State) : State := { s with resource := s.resource ++ [e] }

/-- `PAD[d][p] <- v` (00_scope.md R14). -/
def setPad (a : PinAddr) (v : Word) (s : State) : State := { s with pads := writePad s.pads a v }

/-- `LIFE <- l` (10_state.md R33). -/
def setLife (l : Life) (s : State) : State := { s with life := l }

/-- `DEV_OPEN <- b` (10_state.md R34). -/
def setDevOpen (b : Bool) (s : State) : State := { s with devOpen := b }

/-- One domain's part of the mapping handle (10_state.md R35 to R37). -/
def window (s : State) : Domain → Window
  | .main => s.winMain
  | .wakeup => s.winWakeup

/-- Write one domain's part of the mapping handle (10_state.md R35 to R37). -/
def setWindow (d : Domain) (w : Window) (s : State) : State :=
  match d with
  | .main => { s with winMain := w }
  | .wakeup => { s with winWakeup := w }

/-! ### Responding and raising -/

/-- `respond(OK)`: no data (00_scope.md R16). -/
def respondOk (s : State) : State := respond ⟨.ok, none⟩ s

/-- `respond(OK, rdata = v)`: `RVALID = 1` (00_scope.md R16, 30_encoding.md R92). -/
def respondData (v : Word) (s : State) : State := respond ⟨.ok, some v⟩ s

/-- TAKING A FAULT: the command ends with the fault's status, `RVALID = 0`, and nothing else happens. No state is saved, no
mode switched, control goes nowhere (00_scope.md R16; 60_exceptions.md R177, R182); there is no return from a fault and
nothing to restore, the next command is handled as usual (R178, R183). -/
def raise (f : FaultStatus) (s : State) : State := respond ⟨.raised f, none⟩ s

/-! ### Register access -/

/-- `RegRead(d, p)`: one read, its event, no other change (20_memory.md R56). -/
def regRead (a : PinAddr) (s : State) : Word × State :=
  (readPad s.pads a, emitAccess (.rd a (readPad s.pads a)) s)

/-- `RegWrite(d, p, v)`: one write, its event, no other change (20_memory.md R57). -/
def regWrite (a : PinAddr) (v : Word) (s : State) : State := emitAccess (.wr a v) (setPad a v s)

/-- `RMW(d, p, mask, val)`: one read, then one write, always performed (20_memory.md R58). -/
def rmw (a : PinAddr) (mask val : Word) (s : State) : State :=
  let (t, s1) := regRead a s
  regWrite a (fieldUpdate t mask val) s1

/-- The register a byte-addressed access of `n` bytes reaches, or why it reaches none (20_memory.md R59). -/
def memTarget (addr n : Nat) (s : State) : Except Fault PinAddr :=
  if s.life ≠ .initialized then .error .windowNotMapped
  else if n ≠ 4 then .error (.accessSize n)
  else match registerAt? s.cfg.chip addr with
    | some a => if addr = physAddr s.cfg.chip a then .ok a else .error (.noSuchAddress addr)
    | none => .error (.noSuchAddress addr)

/-- `MemRead(addr, n)` (20_memory.md R59). -/
def memRead (addr n : Nat) (s : State) : Except Fault (Word × State) :=
  match memTarget addr n s with
  | .ok a => .ok (regRead a s)
  | .error f => .error f

/-- `MemWrite(addr, n, v)` (20_memory.md R59). -/
def memWrite (addr n : Nat) (v : Word) (s : State) : Except Fault State :=
  match memTarget addr n s with
  | .ok a => .ok (regWrite a v s)
  | .error f => .error f

/-! ### The checks of a pin command -/

/-- How steps 3 to 5 of 30_encoding.md R93 end. -/
inductive CheckResult where
  | invalidDomain
  | notInitialized
  | outOfRange
  | passed (a : PinAddr)
  deriving DecidableEq, Repr

/-- `Checks(DOM, PIN)`: domain, then lifecycle, then pin bound; the first that fails decides (30_encoding.md R93). -/
def checks (dom : BitVec 8) (pin : BitVec 16) (s : State) : CheckResult :=
  match domainOf? dom with
  | none => .invalidDomain
  | some d =>
    if s.life ≠ .initialized then .notInitialized
    else match pinOf? d pin with
      | none => .outOfRange
      | some a => .passed a

/-- A pin command: `soft` is its answer to an invalid domain under `STRICT_DOMAIN = 0` (60_exceptions.md R172), `body` its
register accesses and response once all checks pass. -/
def pinCommand (dom : BitVec 8) (pin : BitVec 16) (soft : State → State) (body : PinAddr → State → State)
    (s : State) : State :=
  match checks dom pin s with
  | .invalidDomain => if s.cfg.strictDomain then raise .invalidAddress s else soft s
  | .notInitialized => raise .notInitialized s
  | .outOfRange => raise .addressError s
  | .passed a => body a s

/-- A mutating pin command: an invalid domain is a silent no-op, `respond(OK)` follows the accesses (R93, R172). -/
def mutate (dom : BitVec 8) (pin : BitVec 16) (accesses : PinAddr → State → State) (s : State) : State :=
  pinCommand dom pin respondOk (fun a t => respondOk (accesses a t)) s

/-- The common shape of a two-field operation: two cycles, the second after the first (42_direction.md R130, 43_pull.md R140). -/
def rmwTwice (mask1 val1 mask2 val2 : Word) (a : PinAddr) (s : State) : State :=
  rmw a mask2 val2 (rmw a mask1 val1 s)

/-! ### Resources -/

/-- The set of resources held now (40_lifecycle.md R113). -/
def heldNow (s : State) : Held := ⟨s.devOpen, s.winMain.mapped, s.winWakeup.mapped⟩

/-- `Teardown()`: releases what is held in one event, resets the control state to Uninitialized (40_lifecycle.md R113). -/
def teardown (s : State) : State :=
  setLife .uninitialized (setWindow .wakeup Window.none (setWindow .main Window.none
    (setDevOpen false (emitResource (.released (heldNow s)) s))))

/-- INIT step 1 granted: `DEV_OPEN <- 1; emit Open` (40_lifecycle.md R111). -/
def openDevice (s : State) : State := emitResource .opened (setDevOpen true s)

/-- INIT step 2 granted for one domain: `MAPPED`, `MAP_BASE`, `REG_BASE` and `emit Map(d)` (40_lifecycle.md R111). -/
def mapWindow (d : Domain) (base : Nat) (s : State) : State :=
  emitResource (.mapped d)
    (setWindow d { mapped := true, mapBase := some base, regBase := some (regBaseOf s.cfg.chip d base) } s)

/-- `ENV_MAP_OK[d]` (30_encoding.md R101). -/
def mapOk (e : EnvInputs) : Domain → Bool
  | .main => e.mapOkMain
  | .wakeup => e.mapOkWakeup

/-- `ENV_MAP_BASE[d]` (30_encoding.md R101). -/
def mapBase (e : EnvInputs) : Domain → Nat
  | .main => e.mapBaseMain
  | .wakeup => e.mapBaseWakeup

/-- The loop of INIT step 2: map each window in turn, stop at the first denial; `true` when all were granted
(40_lifecycle.md R111). -/
def mapWindows (e : EnvInputs) : List Domain → State → Bool × State
  | [], s => (true, s)
  | d :: ds, s => if mapOk e d then mapWindows e ds (mapWindow d (mapBase e d) s) else (false, s)

/-- INIT from Uninitialized, with the environment inputs it sampled (40_lifecycle.md R111). -/
def acquire (e : EnvInputs) (s : State) : State :=
  if e.devOk then
    match mapWindows e [.main, .wakeup] (openDevice s) with
    | (true, t) => respondOk (setLife .initialized t)
    | (false, t) => raise .resourceError (teardown t)
  else raise .resourceError (teardown s)

/-- An `ADDR_W`-bit input carries an `ADDR_W`-bit number (30_encoding.md R101). -/
def toAddrWidth (c : Chip) (n : Nat) : Nat := n % 2 ^ c.params.addrW

/-- The environment inputs as they reach the block's `ADDR_W`-bit ports (30_encoding.md R101). -/
def atPorts (c : Chip) (e : EnvInputs) : EnvInputs :=
  { e with mapBaseMain := toAddrWidth c e.mapBaseMain, mapBaseWakeup := toAddrWidth c e.mapBaseWakeup }

/-- The n-th unscripted draw of the five environment inputs (30_encoding.md R101; log 3). -/
def drawnEnv (n : Nat) : EnvInputs :=
  { devOk := Config.freeDevOk n
    mapOkMain := Config.freeMapOk n .main
    mapOkWakeup := Config.freeMapOk n .wakeup
    mapBaseMain := Config.freeMapBase n .main
    mapBaseWakeup := Config.freeMapBase n .wakeup }

/-- Sample the environment inputs, afresh at each INIT: the next scripted answer if there is one, else a free draw
(30_encoding.md R100, R101; log 3). -/
def sampleEnv (s : State) : EnvInputs × State :=
  match s.env with
  | e :: rest => (atPorts s.cfg.chip e, { s with env := rest })
  | [] => (atPorts s.cfg.chip (drawnEnv s.draws), { s with draws := s.draws + 1 })

/-! ### Reset of the block, and the next command -/

/-- A reset of the block: a fresh instance over the same chip. Control state and traces as 70_reset_and_hazards.md R200
says; pad registers, parameters and inputs untouched (10_state.md R44, 70_reset_and_hazards.md R201, R203). No command causes it (R202). -/
def blockReset (s : State) : State :=
  { s with life := .uninitialized, devOpen := false, winMain := Window.none, winWakeup := Window.none
           responses := [], access := [], resource := [] }

/-- Accept the next command the host presents (30_encoding.md R80). -/
def nextCommand (s : State) : Option (Command × State) :=
  match s.host with
  | c :: rest => some (c, { s with host := rest })
  | [] => none

/-- The answer to a command word no row of the opcode map accepts (30_encoding.md R94, 60_exceptions.md R176). -/
def illegalCommand (s : State) : State := raise .illegalCommand s

/-- Present a command to be accepted before every command already waiting (log 5). -/
def presentFirst (c : Command) (s : State) : State := { s with host := c :: s.host }

end Sys2Proof.Machine
end

