-- ==== Sys2Proof/Machine/Direction.lean ====
section
/-! DEFINITION. The four direction operations (42_direction.md): `IN_EN` first, `OUT_EN_N` second (R130). -/

namespace Sys2Proof.Machine

open Sys2Proof

/-- SELECT_INPUT (42_direction.md R131): `IN_EN <- 1`, `OUT_EN_N <- 1`. -/
def execSelectInput (dom : BitVec 8) (pin : BitVec 16) (s : State) : Host.Outcome State Fault Refusal :=
  .next (mutate dom pin (rmwTwice maskInEn 0x00040000#32 maskOutEnN 0x00200000#32) s)

/-- SELECT_OUTPUT (42_direction.md R132): `IN_EN <- 0`, `OUT_EN_N <- 0`. -/
def execSelectOutput (dom : BitVec 8) (pin : BitVec 16) (s : State) : Host.Outcome State Fault Refusal :=
  .next (mutate dom pin (rmwTwice maskInEn 0#32 maskOutEnN 0#32) s)

/-- SELECT_INOUT (42_direction.md R133): `IN_EN <- 1`, `OUT_EN_N <- 0`. -/
def execSelectInout (dom : BitVec 8) (pin : BitVec 16) (s : State) : Host.Outcome State Fault Refusal :=
  .next (mutate dom pin (rmwTwice maskInEn 0x00040000#32 maskOutEnN 0#32) s)

/-- SELECT_HIZ (42_direction.md R134): `IN_EN <- 0`, `OUT_EN_N <- 1`. -/
def execSelectHiz (dom : BitVec 8) (pin : BitVec 16) (s : State) : Host.Outcome State Fault Refusal :=
  .next (mutate dom pin (rmwTwice maskInEn 0#32 maskOutEnN 0x00200000#32) s)

end Sys2Proof.Machine
end

