-- ==== Sys2Proof/Machine/Dump.lean ====
section
/-! DEFINITION. DUMP (45_dump.md). -/

namespace Sys2Proof.Machine

open Sys2Proof

/-- DUMP (45_dump.md R160): one read, answered with the record of the word as encoded by R163; no output for an invalid
domain under `STRICT_DOMAIN = 0`. -/
def execDump (dom : BitVec 8) (pin : BitVec 16) (s : State) : Host.Outcome State Fault Refusal :=
  .next (pinCommand dom pin respondOk
    (fun a t => respondData (dumpWord (dumpRecord (regRead a t).1)) (regRead a t).2) s)

end Sys2Proof.Machine
end

