-- ==== Sys2Proof/Machine/FunctionSelect.lean ====
section
/-! DEFINITION. SELECT_FUNCTION (41_function_select.md). -/

namespace Sys2Proof.Machine

open Sys2Proof

/-- SELECT_FUNCTION (41_function_select.md R125): one cycle on `MUX` with `zext_32(FN)`. -/
def execSelectFunction (dom : BitVec 8) (pin : BitVec 16) (fn : BitVec 4) (s : State) :
    Host.Outcome State Fault Refusal :=
  .next (mutate dom pin (fun a => rmw a maskMux (fn.setWidth 32)) s)

end Sys2Proof.Machine
end

