-- ==== Sys2Proof/Machine/Lifecycle.lean ====
section
/-! DEFINITION. INIT and DEINIT (40_lifecycle.md). -/

namespace Sys2Proof.Machine

open Sys2Proof

/-- INIT (40_lifecycle.md R111): `AlreadyInitialized` in Initialized, before any environment input is sampled (R115); else
open the device, map Main, map Wakeup, and tear down on the first denial. -/
def execInit (s : State) : Host.Outcome State Fault Refusal :=
  .next (match s.life with
    | .initialized => raise .alreadyInitialized s
    | .uninitialized => acquire (sampleEnv s).1 (sampleEnv s).2)

/-- DEINIT (40_lifecycle.md R114): tear down, respond OK; it cannot fail. -/
def execDeinit (s : State) : Host.Outcome State Fault Refusal := .next (respondOk (teardown s))

end Sys2Proof.Machine
end

