-- ==== Sys2Proof/Machine/Pull.lean ====
section
/-! DEFINITION. The three pull operations (43_pull.md): `PULL_EN_N` first, `PULL_SEL` second (R140). -/

namespace Sys2Proof.Machine

open Sys2Proof

/-- SELECT_PULL_UP (43_pull.md R141): `PULL_EN_N <- 0`, `PULL_SEL <- 1`. -/
def execSelectPullUp (dom : BitVec 8) (pin : BitVec 16) (s : State) : Host.Outcome State Fault Refusal :=
  .next (mutate dom pin (rmwTwice maskPullEnN 0#32 maskPullSel 0x00020000#32) s)

/-- SELECT_PULL_DOWN (43_pull.md R142): `PULL_EN_N <- 0`, `PULL_SEL <- 0`. -/
def execSelectPullDown (dom : BitVec 8) (pin : BitVec 16) (s : State) : Host.Outcome State Fault Refusal :=
  .next (mutate dom pin (rmwTwice maskPullEnN 0#32 maskPullSel 0#32) s)

/-- SELECT_PULL_DISABLE (43_pull.md R143): one cycle, `PULL_EN_N <- 1`; `PULL_SEL` is not touched. -/
def execSelectPullDisable (dom : BitVec 8) (pin : BitVec 16) (s : State) : Host.Outcome State Fault Refusal :=
  .next (mutate dom pin (fun a => rmw a maskPullEnN 0x00010000#32) s)

end Sys2Proof.Machine
end

