-- ==== Sys2Proof/Machine/RawAccess.lean ====
section
/-! DEFINITION. GET_RAW and SET_RAW (44_raw_access.md). -/

namespace Sys2Proof.Machine

open Sys2Proof

/-- GET_RAW (44_raw_access.md R150): one read, all 32 bits; the sentinel for an invalid domain under `STRICT_DOMAIN = 0`. -/
def execGetRaw (dom : BitVec 8) (pin : BitVec 16) (s : State) : Host.Outcome State Fault Refusal :=
  .next (pinCommand dom pin (respondData sentinel) (fun a t => respondData (regRead a t).1 (regRead a t).2) s)

/-- SET_RAW (44_raw_access.md R151): one write of `WDATA`, no read. -/
def execSetRaw (dom : BitVec 8) (pin : BitVec 16) (value : Word) (s : State) : Host.Outcome State Fault Refusal :=
  .next (mutate dom pin (fun a => regWrite a value) s)

end Sys2Proof.Machine
end

