-- ==== Sys2Proof/Machine/Dispatch.lean ====
section
/-! DEFINITION. The meaning of every instruction, one arm each. -/

namespace Sys2Proof.Machine

open Sys2Proof

def exec (i : Instr) (s : State) : Host.Outcome State Fault Refusal :=
  match i with
  | .init => Sys2Proof.Machine.execInit s
  | .deinit => Sys2Proof.Machine.execDeinit s
  | .selectFunction dom pin fn => Sys2Proof.Machine.execSelectFunction dom pin fn s
  | .selectInput dom pin => Sys2Proof.Machine.execSelectInput dom pin s
  | .selectOutput dom pin => Sys2Proof.Machine.execSelectOutput dom pin s
  | .selectInout dom pin => Sys2Proof.Machine.execSelectInout dom pin s
  | .selectHiz dom pin => Sys2Proof.Machine.execSelectHiz dom pin s
  | .selectPullUp dom pin => Sys2Proof.Machine.execSelectPullUp dom pin s
  | .selectPullDown dom pin => Sys2Proof.Machine.execSelectPullDown dom pin s
  | .selectPullDisable dom pin => Sys2Proof.Machine.execSelectPullDisable dom pin s
  | .getRaw dom pin => Sys2Proof.Machine.execGetRaw dom pin s
  | .setRaw dom pin value => Sys2Proof.Machine.execSetRaw dom pin value s
  | .dump dom pin => Sys2Proof.Machine.execDump dom pin s

end Sys2Proof.Machine
end

