-- ==== Sys2Proof/Machine/Step.lean ====
section
/-! DEFINITION. One step of the block: one command, from its acceptance to its response (30_encoding.md R80, R93). -/

namespace Sys2Proof.Machine

open Sys2Proof

/-- One step. With no command presented the block executes nothing (70_reset_and_hazards.md R202). A command is decoded first; an
illegal one is answered with `IllegalCommand` (30_encoding.md R93 step 1), a legal one runs. -/
def step (s : State) : Host.Outcome State Fault Refusal :=
  match nextCommand s with
  | none => .next s
  | some (c, t) =>
    match decode c with
    | .ok i => exec i t
    | .error _ => .next (illegalCommand t)

/-- `s` with the command of an opcode-table word presented next (log 5). -/
def State.withFetchWord (s : State) (nbits w : Nat) : State := presentFirst (commandOfTableBits nbits w) s

end Sys2Proof.Machine
end

