-- ==== Sys2Proof/Safety.lean ====
section
/-! DEFINITION. What claims about the block are stated in: the coherence of the control state at a command boundary
(10_state.md R38), the account of the resource trace (40_lifecycle.md R117), the invariant made of them, and a safe outcome. -/

namespace Sys2Proof.Machine

open Sys2Proof

/-- The domain identifier values of 30_encoding.md R84. -/
def domainNumber : Domain → Nat
  | .main => 0
  | .wakeup => 1

/-- The operands `DOM` and `PIN` name the pad register `a` (20_memory.md R54, R55). -/
def addresses (dom : BitVec 8) (pin : BitVec 16) (a : PinAddr) : Prop :=
  dom.toNat = domainNumber a.dom ∧ pin.toNat = a.idx.val

/-- `s` with one more response and nothing else changed: what `respond` and `raise` leave (00_scope.md R16). -/
def answered (s : State) (r : Response) : State := { s with responses := s.responses ++ [r] }

/-- The state after a command of one read-modify-write cycle on `a` that writes `w` and responds OK (20_memory.md R58). -/
def afterCycle (s : State) (a : PinAddr) (w : Word) : State :=
  { s with pads := writePad s.pads a w
           access := s.access ++ [.rd a (readPad s.pads a), .wr a w]
           responses := s.responses ++ [⟨.ok, none⟩] }

/-- The state after a command of two cycles on `a`, `w1` after the first and `w2` after the second (42_direction.md R130,
43_pull.md R140). -/
def afterTwoCycles (s : State) (a : PinAddr) (w1 w2 : Word) : State :=
  { s with pads := writePad s.pads a w2
           access := s.access ++ [.rd a (readPad s.pads a), .wr a w1, .rd a w1, .wr a w2]
           responses := s.responses ++ [⟨.ok, none⟩] }

/-- The state after a command that reads `a` once and responds OK with `data` (44_raw_access.md R150, 45_dump.md R160). -/
def afterRead (s : State) (a : PinAddr) (data : Word) : State :=
  { s with access := s.access ++ [.rd a (readPad s.pads a)]
           responses := s.responses ++ [⟨.ok, some data⟩] }

/-- How the pin command `i` on `dom`, `pin` is answered when a check of 30_encoding.md R93 fails; `soft` is the data of its
answer to an invalid domain under `STRICT_DOMAIN = 0`. -/
def answersFailedChecks (i : Instr) (dom : BitVec 8) (pin : BitVec 16) (soft : Option Word) : Prop :=
  ∀ s : State,
    (2 ≤ dom.toNat → s.cfg.strictDomain = false → exec i s = .next (answered s ⟨.ok, soft⟩)) ∧
    (2 ≤ dom.toNat → s.cfg.strictDomain = true → exec i s = .next (answered s ⟨.raised .invalidAddress, none⟩)) ∧
    (dom.toNat < 2 → s.life = .uninitialized → exec i s = .next (answered s ⟨.raised .notInitialized, none⟩)) ∧
    (∀ d : Domain, dom.toNat = domainNumber d → s.life = .initialized → d.count ≤ pin.toNat →
      exec i s = .next (answered s ⟨.raised .addressError, none⟩))

/-- With operation code `op` a function code that is not zero makes the word illegal (30_encoding.md R94). -/
def rejectsFunctionField (op : BitVec 4) : Prop :=
  ∀ (fn : BitVec 4) (dom : BitVec 8) (pin : BitVec 16) (wd : Word), fn ≠ 0#4 →
    ∃ e, decode ⟨op ++ fn ++ dom ++ pin, wd⟩ = .error e

/-- The control state and the resource trace are as before. -/
def sameControl (s t : State) : Prop :=
  t.life = s.life ∧ t.devOpen = s.devOpen ∧ t.winMain = s.winMain ∧ t.winWakeup = s.winWakeup ∧
    t.resource = s.resource

/-- The parameters and the inputs are as before. -/
def sameInputs (s t : State) : Prop :=
  t.cfg = s.cfg ∧ t.host = s.host ∧ t.env = s.env ∧ t.draws = s.draws

/-- The eight SELECT operations (30_encoding.md R93). -/
def isSelect : Instr → Bool
  | .init => false
  | .deinit => false
  | .selectFunction _ _ _ => true
  | .selectInput _ _ => true
  | .selectOutput _ _ => true
  | .selectInout _ _ => true
  | .selectHiz _ _ => true
  | .selectPullUp _ _ => true
  | .selectPullDown _ _ => true
  | .selectPullDisable _ _ => true
  | .getRaw _ _ => false
  | .setRaw _ _ _ => false
  | .dump _ _ => false

/-- The number of register accesses of a command that passes its checks (70_reset_and_hazards.md R221). -/
def accessCount : Instr → Nat
  | .init => 0
  | .deinit => 0
  | .selectFunction _ _ _ => 2
  | .selectInput _ _ => 4
  | .selectOutput _ _ => 4
  | .selectInout _ _ => 4
  | .selectHiz _ _ => 4
  | .selectPullUp _ _ => 4
  | .selectPullDown _ _ => 4
  | .selectPullDisable _ _ => 2
  | .getRaw _ _ => 1
  | .setRaw _ _ _ => 1
  | .dump _ _ => 1

/-- The register an access event is on. -/
def eventAddr : AccessEvent → PinAddr
  | .rd a _ => a
  | .wr a _ => a

/-- The reset control state: nothing held, nothing mapped, Uninitialized (10_state.md R38 first case, R42). -/
def controlReset (s : State) : Prop :=
  s.life = .uninitialized ∧ s.devOpen = false ∧ s.winMain = Window.none ∧ s.winWakeup = Window.none

/-- A window that is mapped, with both its addresses: `MAP_BASE[d]` an `ADDR_W`-bit address, `REG_BASE[d]` formed from it
(10_state.md R35 to R37). -/
def windowHeld (c : Chip) (d : Domain) (w : Window) : Prop :=
  w.mapped = true ∧ ∃ b, b < 2 ^ c.params.addrW ∧ w.mapBase = some b ∧ w.regBase = some (regBaseOf c d b)

/-- Everything held: Initialized, the device open, both windows mapped with all four addresses (10_state.md R38 second case). -/
def controlHeld (s : State) : Prop :=
  s.life = .initialized ∧ s.devOpen = true ∧ windowHeld s.cfg.chip .main s.winMain ∧
    windowHeld s.cfg.chip .wakeup s.winWakeup

/-- 10_state.md R38: at every command boundary one of the two situations holds. -/
def controlCoherent (s : State) : Prop := controlReset s ∨ controlHeld s

/-- Nothing held. -/
def Held.empty : Held := ⟨false, false, false⟩

/-- Everything held: `{dev, Main, Wakeup}`. -/
def Held.full : Held := ⟨true, true, true⟩

/-- The set held after one more event of the resource trace; `none` if the event acquires what is held or releases what
is not (40_lifecycle.md R117). -/
def heldAfter (h : Held) : ResourceEvent → Option Held
  | .opened => if h.dev then none else some { h with dev := true }
  | .mapped .main => if h.main then none else some { h with main := true }
  | .mapped .wakeup => if h.wakeup then none else some { h with wakeup := true }
  | .released set =>
    if (set.dev && !h.dev) || (set.main && !h.main) || (set.wakeup && !h.wakeup) then none
    else some ⟨h.dev && !set.dev, h.main && !set.main, h.wakeup && !set.wakeup⟩

/-- The set acquired and not yet released after a whole trace, from the set held before it; `none` if an event of it acquired twice or
released what was not held (40_lifecycle.md R117). -/
def account (h : Held) : List ResourceEvent → Option Held
  | [] => some h
  | e :: es => match heldAfter h e with
    | some h' => account h' es
    | none => none

/-- The set that is held in each lifecycle state (40_lifecycle.md R117). -/
def Held.due : Life → Held
  | .initialized => Held.full
  | .uninitialized => Held.empty

/-- Leak freedom (40_lifecycle.md R117): the account of the trace is `{dev, Main, Wakeup}` in Initialized and `{}` in
Uninitialized. -/
def leakFree (s : State) : Prop :=
  account Held.empty s.resource = some (Held.due s.life)

/-- The invariant of every command boundary. -/
def boundaryInv (s : State) : Prop := controlCoherent s ∧ leakFree s

/-- A safe outcome of a step: a next state at a command boundary. -/
def safeOutcome (o : Host.Outcome State Fault Refusal) : Prop := ∃ t, o = .next t ∧ boundaryInv t

end Sys2Proof.Machine
end

