-- ==== Sys2Proof/Certificates/Slice0/Obligations.lean ====
section
/-! DEFINITION. The statements for the provers. -/

open Sys2Proof Sys2Proof.Machine

/-! ### Reset -/

/-- 70_reset_and_hazards.md R200: the control state after reset, with both traces empty, of a fresh instance and after a
reset of the block in any state. -/
def Obligations.ResetControlState : Prop :=
  State.reset.life = .uninitialized ∧ State.reset.devOpen = false ∧
  (window State.reset .main).mapped = false ∧ (window State.reset .wakeup).mapped = false ∧
  (∀ d, (window State.reset d).mapBase = none ∧ (window State.reset d).regBase = none) ∧
  State.reset.access = [] ∧ State.reset.resource = [] ∧
  ∀ s : State, controlReset (blockReset s) ∧ (blockReset s).access = [] ∧ (blockReset s).resource = []

/-- 70_reset_and_hazards.md R201: every pad register starts at the open launch argument, and a reset of the block
touches none. -/
def Obligations.ResetPadContents : Prop :=
  (∀ a : PinAddr, readPad State.reset.pads a = Config.freeResetPad a.dom a.idx.val) ∧
  (∀ (s : State) (a : PinAddr), readPad (blockReset s).pads a = readPad s.pads a)

/-! ### Encoding -/

/-- 30_encoding.md R87: the opcode map, row by row, with the operands of R88; no row, no operation. -/
def Obligations.OpcodeMap : Prop :=
  ∀ w wd : Word,
    let dom := (w >>> 16).setWidth 8
    let pin := w.setWidth 16
    (w &&& 0xFFFFFFFF#32 = 0x10000000#32 → decode ⟨w, wd⟩ = .ok .init) ∧
    (w &&& 0xFFFFFFFF#32 = 0x20000000#32 → decode ⟨w, wd⟩ = .ok .deinit) ∧
    (w &&& 0xF0000000#32 = 0x30000000#32 →
      decode ⟨w, wd⟩ = .ok (.selectFunction dom pin ((w >>> 24).setWidth 4))) ∧
    (w &&& 0xFF000000#32 = 0x40000000#32 → decode ⟨w, wd⟩ = .ok (.selectInput dom pin)) ∧
    (w &&& 0xFF000000#32 = 0x50000000#32 → decode ⟨w, wd⟩ = .ok (.selectOutput dom pin)) ∧
    (w &&& 0xFF000000#32 = 0x60000000#32 → decode ⟨w, wd⟩ = .ok (.selectInout dom pin)) ∧
    (w &&& 0xFF000000#32 = 0x70000000#32 → decode ⟨w, wd⟩ = .ok (.selectHiz dom pin)) ∧
    (w &&& 0xFF000000#32 = 0x80000000#32 → decode ⟨w, wd⟩ = .ok (.selectPullUp dom pin)) ∧
    (w &&& 0xFF000000#32 = 0x90000000#32 → decode ⟨w, wd⟩ = .ok (.selectPullDown dom pin)) ∧
    (w &&& 0xFF000000#32 = 0xA0000000#32 → decode ⟨w, wd⟩ = .ok (.selectPullDisable dom pin)) ∧
    (w &&& 0xFF000000#32 = 0xB0000000#32 → decode ⟨w, wd⟩ = .ok (.getRaw dom pin)) ∧
    (w &&& 0xFF000000#32 = 0xC0000000#32 → decode ⟨w, wd⟩ = .ok (.setRaw dom pin wd)) ∧
    (w &&& 0xFF000000#32 = 0xD0000000#32 → decode ⟨w, wd⟩ = .ok (.dump dom pin)) ∧
    ((∀ r ∈ opcodeRows, w &&& r.mask ≠ r.pattern) → ∃ e, decode ⟨w, wd⟩ = .error e)

/-- 30_encoding.md R94: exactly which command words are illegal, and that an illegal command is answered with
`IllegalCommand` and changes nothing else, whatever the state. The check of WellFormed says the same of a word. -/
def Obligations.IllegalCommandWords : Prop :=
  (∀ c : Command,
    let op := c.cmd.toNat / 2 ^ 28
    let fn := c.cmd.toNat / 2 ^ 24 % 16
    ((op = 0 ∨ op = 14 ∨ op = 15) ∨ (4 ≤ op ∧ op ≤ 13 ∧ fn ≠ 0) ∨
      ((op = 1 ∨ op = 2) ∧ c.cmd.toNat % 2 ^ 28 ≠ 0)) ↔ ∃ e, decode c = .error e) ∧
  (∀ c : Command, c.wellFormed = false ↔ ∃ e, decode c = .error e) ∧
  (∀ (s : State) (c : Command) (rest : List Command) (e : IllegalWord),
    s.host = c :: rest → decode c = .error e →
      step s = .next (answered { s with host := rest } ⟨.raised .illegalCommand, none⟩))

/-- Decoding the encoding of any instruction gives the instruction back, with every operand at every value of its field. -/
def Obligations.DecodeEncodeRoundTrip : Prop := ∀ i : Instr, decode (encode i) = .ok i

/-- Encoding a decoded command gives its command word back, bit for bit, and its write data where the operation has any. -/
def Obligations.EncodeDecodeRoundTrip : Prop :=
  ∀ (c : Command) (i : Instr), decode c = .ok i →
    (encode i).cmd = c.cmd ∧ (c.cmd >>> 28 = 0xC#32 → (encode i).wdata = c.wdata)

/-- 30_encoding.md R86: outside SET_RAW no value of `WDATA` makes a command illegal, changes what it decodes to or changes
the step that runs it, and SET_RAW takes every value of it. -/
def Obligations.WriteDataIgnored : Prop :=
  (∀ w d d' : Word, w >>> 28 ≠ 0xC#32 → decode ⟨w, d⟩ = decode ⟨w, d'⟩) ∧
  (∀ (s : State) (w d d' : Word) (rest : List Command), w >>> 28 ≠ 0xC#32 →
    step { s with host := ⟨w, d⟩ :: rest } = step { s with host := ⟨w, d'⟩ :: rest }) ∧
  (∀ (dom : BitVec 8) (pin : BitVec 16) (v : Word),
    decode ⟨0xC#4 ++ 0x0#4 ++ dom ++ pin, v⟩ = .ok (.setRaw dom pin v))

/-- Words written out in 95_test_vectors.md decode to the operations it names. -/
def Obligations.WorkedWordsDecode : Prop :=
  decode ⟨0x370000C2#32, 0#32⟩ = .ok (.selectFunction 0#8 194#16 7#4) ∧
  decode ⟨0x60010000#32, 0#32⟩ = .ok (.selectInout 1#8 0#16) ∧
  decode ⟨0x90010045#32, 0#32⟩ = .ok (.selectPullDown 1#8 69#16) ∧
  decode ⟨0xC0010000#32, 0xDEADBEEF#32⟩ = .ok (.setRaw 1#8 0#16 0xDEADBEEF#32) ∧
  decode ⟨0xD00000C3#32, 0#32⟩ = .ok (.dump 0#8 195#16)

/-! ### Steps -/

/-- A step takes the next command the host presents and, when it decodes, is `exec` of the instruction on the state without
that command (30_encoding.md R80, R93). -/
def Obligations.StepRunsDecodedCommand : Prop :=
  ∀ (s : State) (c : Command) (rest : List Command) (i : Instr),
    s.host = c :: rest → decode c = .ok i → step s = exec i { s with host := rest }

/-- With no command presented the block executes nothing (70_reset_and_hazards.md R202). -/
def Obligations.NothingPresentedNothingExecuted : Prop :=
  ∀ s : State, s.host = [] → step s = .next s

/-- Every step ends in a next state: no command stops the machine (60_exceptions.md R178, 70_reset_and_hazards.md R221). -/
def Obligations.EveryCommandCompletes : Prop :=
  (∀ s : State, ∃ t, step s = .next t) ∧ (∀ (i : Instr) (s : State), ∃ t, exec i s = .next t)

/-- Every command is answered with exactly one response, and data comes with status OK of GET_RAW or DUMP only
(30_encoding.md R80, R90, R92). -/
def Obligations.OneResponsePerCommand : Prop :=
  ∀ (s : State) (c : Command) (rest : List Command), s.host = c :: rest →
    ∃ t r, step s = .next t ∧ t.host = rest ∧ t.responses = s.responses ++ [r] ∧
      (rvalid r = 1#1 → statusCode r.status = 0x0#4 ∧
        ∃ dom pin, decode c = .ok (.getRaw dom pin) ∨ decode c = .ok (.dump dom pin))

/-- 70_reset_and_hazards.md R203: no command and no reset of the block changes the parameters. The last clause, that a
pin command ends in the same next state on every chip, is the model's choice and no rule: commands reach `PAD[d][p]` by
`(d, p)` (20_memory.md R65 allows it; log 9) and `PAD[d]` stands for the true registers whatever the bases are (log 18), where
R207 says that with wrong bases a command reads and writes what lies at the wrong addresses. -/
def Obligations.ParametersFixed : Prop :=
  (∀ s t : State, step s = .next t → t.cfg = s.cfg) ∧ (∀ s : State, (blockReset s).cfg = s.cfg) ∧
  ∀ (i : Instr) (dom : BitVec 8) (pin : BitVec 16) (s : State) (c : Chip), i.pinOperands = some (dom, pin) →
    ∃ t, exec i s = .next t ∧
      exec i { s with cfg := { s.cfg with chip := c } } = .next { t with cfg := { s.cfg with chip := c } }

/-! ### Checks and faults -/

/-- How the checks of a pin command end, for every domain number, pin-index and lifecycle state (20_memory.md R54, R55;
30_encoding.md R93). -/
def Obligations.CheckOrder : Prop :=
  ∀ (dom : BitVec 8) (pin : BitVec 16) (s : State),
    (checks dom pin s = .invalidDomain ↔ 2 ≤ dom.toNat) ∧
    (checks dom pin s = .notInitialized ↔ dom.toNat < 2 ∧ s.life = .uninitialized) ∧
    (checks dom pin s = .outOfRange ↔ s.life = .initialized ∧
      ((dom.toNat = 0 ∧ 195 ≤ pin.toNat) ∨ (dom.toNat = 1 ∧ 70 ≤ pin.toNat))) ∧
    (∀ a, checks dom pin s = .passed a ↔ s.life = .initialized ∧ addresses dom pin a)

/-- 60_exceptions.md R172: an invalid domain, silent by default, `InvalidAddress` in strict mode, in either lifecycle state,
with no register access and no state change. -/
def Obligations.InvalidDomainPolicy : Prop :=
  statusCode (.raised .invalidAddress) = 0x2#4 ∧
  ∀ (i : Instr) (dom : BitVec 8) (pin : BitVec 16) (s : State),
    i.pinOperands = some (dom, pin) → 2 ≤ dom.toNat →
      (s.cfg.strictDomain = false → i ≠ .getRaw dom pin → exec i s = .next (answered s ⟨.ok, none⟩)) ∧
      (s.cfg.strictDomain = false → i = .getRaw dom pin →
        exec i s = .next (answered s ⟨.ok, some 0xFFFFFFFF#32⟩)) ∧
      (s.cfg.strictDomain = true → exec i s = .next (answered s ⟨.raised .invalidAddress, none⟩))

/-- 60_exceptions.md R174: a pin command with a valid domain in Uninitialized is rejected, whatever its pin-index. -/
def Obligations.NotInitializedRejects : Prop :=
  statusCode (.raised .notInitialized) = 0x4#4 ∧
  ∀ (i : Instr) (dom : BitVec 8) (pin : BitVec 16) (s : State),
    i.pinOperands = some (dom, pin) → dom.toNat < 2 → s.life = .uninitialized →
      exec i s = .next (answered s ⟨.raised .notInitialized, none⟩)

/-- 60_exceptions.md R173: an out-of-range pin-index is always the explicit `AddressError`, in either domain mode. -/
def Obligations.PinOutOfRange : Prop :=
  statusCode (.raised .addressError) = 0x3#4 ∧
  ∀ (i : Instr) (dom : BitVec 8) (pin : BitVec 16) (s : State),
    i.pinOperands = some (dom, pin) → s.life = .initialized →
      ((dom.toNat = 0 ∧ 195 ≤ pin.toNat) ∨ (dom.toNat = 1 ∧ 70 ≤ pin.toNat)) →
        exec i s = .next (answered s ⟨.raised .addressError, none⟩)

/-- 30_encoding.md R91: the status codes; 7 to 15 are never produced, and `INVALID_ADDRESS` is
produced in strict mode only. -/
def Obligations.StatusCodes : Prop :=
  statusCode .ok = 0x0#4 ∧ statusCode (.raised .resourceError) = 0x1#4 ∧
  statusCode (.raised .invalidAddress) = 0x2#4 ∧ statusCode (.raised .addressError) = 0x3#4 ∧
  statusCode (.raised .notInitialized) = 0x4#4 ∧ statusCode (.raised .alreadyInitialized) = 0x5#4 ∧
  statusCode (.raised .illegalCommand) = 0x6#4 ∧ (∀ st, (statusCode st).toNat < 7) ∧
  ∀ s t : State, step s = .next t → s.cfg.strictDomain = false →
    t.responses = s.responses ∨ ∃ r, t.responses = s.responses ++ [r] ∧ statusCode r.status ≠ 0x2#4

/-! ### Lifecycle -/

/-- 40_lifecycle.md R111 and R112: INIT from Uninitialized with nothing held, for every answer of the environment: which
response, what is held after, and the resource trace, row by row; and INIT in Initialized. -/
def Obligations.InitMeaning : Prop :=
  (∀ c : Command, decode c = .ok .init ↔ c.cmd = 0x10000000#32) ∧
  (∀ s : State, s.life = .initialized →
    exec .init s = .next (answered s ⟨.raised .alreadyInitialized, none⟩)) ∧
  ∀ (s : State) (e : EnvInputs) (rest : List EnvInputs), controlReset s → s.env = e :: rest →
    (e.devOk = false →
      exec .init s = .next (answered { s with env := rest, resource := s.resource ++ [.released ⟨false, false, false⟩] }
        ⟨.raised .resourceError, none⟩)) ∧
    (e.devOk = true → e.mapOkMain = false →
      exec .init s = .next (answered { s with
          env := rest, resource := s.resource ++ [.opened, .released ⟨true, false, false⟩] }
        ⟨.raised .resourceError, none⟩)) ∧
    (e.devOk = true → e.mapOkMain = true → e.mapOkWakeup = false →
      exec .init s = .next (answered { s with
          env := rest, resource := s.resource ++ [.opened, .mapped .main, .released ⟨true, true, false⟩] }
        ⟨.raised .resourceError, none⟩)) ∧
    (e.devOk = true → e.mapOkMain = true → e.mapOkWakeup = true →
      e.mapBaseMain < 2 ^ s.cfg.chip.params.addrW → e.mapBaseWakeup < 2 ^ s.cfg.chip.params.addrW →
      e.mapBaseMain + (s.cfg.chip.params.physMain &&& (s.cfg.chip.params.pageSize - 1)) <
        2 ^ s.cfg.chip.params.addrW →
      e.mapBaseWakeup + (s.cfg.chip.params.physWakeup &&& (s.cfg.chip.params.pageSize - 1)) <
        2 ^ s.cfg.chip.params.addrW →
      exec .init s = .next (answered { s with
          env := rest
          life := .initialized
          devOpen := true
          winMain := ⟨true, some e.mapBaseMain,
            some (e.mapBaseMain + (s.cfg.chip.params.physMain &&& (s.cfg.chip.params.pageSize - 1)))⟩
          winWakeup := ⟨true, some e.mapBaseWakeup,
            some (e.mapBaseWakeup + (s.cfg.chip.params.physWakeup &&& (s.cfg.chip.params.pageSize - 1)))⟩
          resource := s.resource ++ [.opened, .mapped .main, .mapped .wakeup] }
        ⟨.ok, none⟩))

/-- 30_encoding.md R101: with no scripted answer INIT draws the five inputs afresh, and does with the draw what it does with
the same scripted answer. The scripting is the model's (log 3); nothing is said of the drawn values. -/
def Obligations.InitDrawsAfresh : Prop :=
  ∀ s : State, s.life = .uninitialized → s.env = [] →
    ∃ t, exec .init s = .next t ∧ t.draws = s.draws + 1 ∧ t.env = [] ∧
      exec .init { s with env := [drawnEnv s.draws] } = .next { t with draws := s.draws }

/-- An INIT whose mapped base leaves no room for the in-page offset still completes: everything is held, and `REG_BASE`
alone is open (20_memory.md R75 states the sum only without a wrap; log 4). -/
def Obligations.InitWithWrappingBase : Prop :=
  ∀ (s : State) (e : EnvInputs) (rest : List EnvInputs), controlReset s → s.env = e :: rest →
    e.devOk = true → e.mapOkMain = true → e.mapOkWakeup = true →
    e.mapBaseMain < 2 ^ s.cfg.chip.params.addrW → e.mapBaseWakeup < 2 ^ s.cfg.chip.params.addrW →
      ∃ t, exec .init s = .next t ∧ controlHeld t ∧ t.winMain.mapBase = some e.mapBaseMain ∧
        t.winWakeup.mapBase = some e.mapBaseWakeup ∧ t.pads = s.pads ∧
        t.responses = s.responses ++ [⟨.ok, none⟩]

/-- 40_lifecycle.md R113 and R114: DEINIT releases whatever is held, from any state, in one event, and a second DEINIT
releases the empty set and leaves the same control state. -/
def Obligations.DeinitMeaning : Prop :=
  (∀ c : Command, decode c = .ok .deinit ↔ c.cmd = 0x20000000#32) ∧
  (∀ s : State, exec .deinit s = .next (answered { s with
      life := .uninitialized
      devOpen := false
      winMain := ⟨false, none, none⟩
      winWakeup := ⟨false, none, none⟩
      resource := s.resource ++ [.released ⟨s.devOpen, s.winMain.mapped, s.winWakeup.mapped⟩] } ⟨.ok, none⟩)) ∧
  (∀ s : State, ∃ t, exec .deinit s = .next t ∧
    exec .deinit t = .next (answered { t with resource := t.resource ++ [.released ⟨false, false, false⟩] }
      ⟨.ok, none⟩))

/-- 10_state.md R44: INIT, DEINIT and a reset of the block change no pad register (and no byte of either window); INIT and
DEINIT access none. -/
def Obligations.LifecycleKeepsPads : Prop :=
  ∀ s : State,
    (∃ t, exec .init s = .next t ∧ t.pads = s.pads ∧ t.access = s.access ∧
      ∀ addr, readByte? t.cfg.chip t.pads addr = readByte? s.cfg.chip s.pads addr) ∧
    (∃ t, exec .deinit s = .next t ∧ t.pads = s.pads ∧ t.access = s.access ∧
      ∀ addr, readByte? t.cfg.chip t.pads addr = readByte? s.cfg.chip s.pads addr) ∧
    (blockReset s).pads = s.pads

/-- The lifecycle changes in two ways only: an INIT that answers OK, and DEINIT (40_lifecycle.md R110). -/
def Obligations.LifecycleTransitions : Prop :=
  ∀ s t : State, step s = .next t → t.life ≠ s.life →
    (s.life = .uninitialized ∧ t.life = .initialized ∧ t.responses = s.responses ++ [⟨.ok, none⟩] ∧
      ∃ c rest, s.host = c :: rest ∧ decode c = .ok .init) ∨
    (s.life = .initialized ∧ t.life = .uninitialized ∧
      ∃ c rest, s.host = c :: rest ∧ decode c = .ok .deinit)

/-- A failed INIT leaves the control state and the pads it found, so that a retry with the next answer runs as a first INIT
(40_lifecycle.md R116). -/
def Obligations.FailedInitCanBeRetried : Prop :=
  ∀ (s : State) (e e' : EnvInputs) (rest : List EnvInputs), controlReset s → s.env = e :: e' :: rest →
    (e.devOk && e.mapOkMain && e.mapOkWakeup) = false →
    e'.devOk = true → e'.mapOkMain = true → e'.mapOkWakeup = true →
      ∃ t u, exec .init s = .next t ∧ controlReset t ∧ t.pads = s.pads ∧
        t.responses = s.responses ++ [⟨.raised .resourceError, none⟩] ∧
        exec .init t = .next u ∧ controlHeld u ∧ u.responses = t.responses ++ [⟨.ok, none⟩]

/-! ### Function, direction and pull selection -/

/-- 41_function_select.md R125: SELECT_FUNCTION, its encoding, its failing checks, and its one cycle. -/
def Obligations.SelectFunctionMeaning : Prop :=
  (∀ (dom : BitVec 8) (pin : BitVec 16) (fn : BitVec 4) (wd : Word),
    decode ⟨0x3#4 ++ fn ++ dom ++ pin, wd⟩ = .ok (.selectFunction dom pin fn)) ∧
  (∀ dom pin fn, answersFailedChecks (.selectFunction dom pin fn) dom pin none) ∧
  (∀ (s : State) (dom : BitVec 8) (pin : BitVec 16) (fn : BitVec 4) (a : PinAddr),
    addresses dom pin a → s.life = .initialized →
      exec (.selectFunction dom pin fn) s =
        .next (afterCycle s a ((readPad s.pads a &&& 0xFFFFFFF0#32) ||| fn.setWidth 32)))

/-- 41_function_select.md R126: after SELECT_FUNCTION the mux-mode field is the function code and every other bit is as
before; selecting the same function again changes no register. -/
def Obligations.SelectFunctionField : Prop :=
  ∀ (s : State) (dom : BitVec 8) (pin : BitVec 16) (fn : BitVec 4) (a : PinAddr),
    addresses dom pin a → s.life = .initialized →
      ∃ t u, exec (.selectFunction dom pin fn) s = .next t ∧ (readPad t.pads a).setWidth 4 = fn ∧
        readPad t.pads a &&& 0xFFFFFFF0#32 = readPad s.pads a &&& 0xFFFFFFF0#32 ∧
        exec (.selectFunction dom pin fn) t = .next u ∧ u.pads = t.pads ∧
        u.access = t.access ++ [.rd a (readPad t.pads a), .wr a (readPad t.pads a)]

/-- 42_direction.md R131 with the common shape of R130: SELECT_INPUT, its encoding, its failing checks,
and its two cycles, `IN_EN` first (decision D15 of the spec). -/
def Obligations.SelectInputMeaning : Prop :=
  (∀ (dom : BitVec 8) (pin : BitVec 16) (wd : Word),
    decode ⟨0x4#4 ++ 0x0#4 ++ dom ++ pin, wd⟩ = .ok (.selectInput dom pin)) ∧
  rejectsFunctionField 0x4#4 ∧
  (∀ dom pin, answersFailedChecks (.selectInput dom pin) dom pin none) ∧
  (∀ (s : State) (dom : BitVec 8) (pin : BitVec 16) (a : PinAddr),
    addresses dom pin a → s.life = .initialized →
      exec (.selectInput dom pin) s = .next (afterTwoCycles s a (readPad s.pads a ||| 0x00040000#32)
        (readPad s.pads a ||| 0x00240000#32)))

/-- 42_direction.md R132 with the common shape of R130: SELECT_OUTPUT, its encoding, its failing checks,
and its two cycles, `IN_EN` first (decision D15 of the spec). -/
def Obligations.SelectOutputMeaning : Prop :=
  (∀ (dom : BitVec 8) (pin : BitVec 16) (wd : Word),
    decode ⟨0x5#4 ++ 0x0#4 ++ dom ++ pin, wd⟩ = .ok (.selectOutput dom pin)) ∧
  rejectsFunctionField 0x5#4 ∧
  (∀ dom pin, answersFailedChecks (.selectOutput dom pin) dom pin none) ∧
  (∀ (s : State) (dom : BitVec 8) (pin : BitVec 16) (a : PinAddr),
    addresses dom pin a → s.life = .initialized →
      exec (.selectOutput dom pin) s = .next (afterTwoCycles s a (readPad s.pads a &&& 0xFFFBFFFF#32)
        (readPad s.pads a &&& 0xFFDBFFFF#32)))

/-- 42_direction.md R133 with the common shape of R130: SELECT_INOUT, its encoding, its failing checks,
and its two cycles, `IN_EN` first (decision D15 of the spec). -/
def Obligations.SelectInoutMeaning : Prop :=
  (∀ (dom : BitVec 8) (pin : BitVec 16) (wd : Word),
    decode ⟨0x6#4 ++ 0x0#4 ++ dom ++ pin, wd⟩ = .ok (.selectInout dom pin)) ∧
  rejectsFunctionField 0x6#4 ∧
  (∀ dom pin, answersFailedChecks (.selectInout dom pin) dom pin none) ∧
  (∀ (s : State) (dom : BitVec 8) (pin : BitVec 16) (a : PinAddr),
    addresses dom pin a → s.life = .initialized →
      exec (.selectInout dom pin) s = .next (afterTwoCycles s a (readPad s.pads a ||| 0x00040000#32)
        ((readPad s.pads a &&& 0xFFDFFFFF#32) ||| 0x00040000#32)))

/-- 42_direction.md R134 with the common shape of R130: SELECT_HIZ, its encoding, its failing checks,
and its two cycles, `IN_EN` first (decision D15 of the spec). -/
def Obligations.SelectHizMeaning : Prop :=
  (∀ (dom : BitVec 8) (pin : BitVec 16) (wd : Word),
    decode ⟨0x7#4 ++ 0x0#4 ++ dom ++ pin, wd⟩ = .ok (.selectHiz dom pin)) ∧
  rejectsFunctionField 0x7#4 ∧
  (∀ dom pin, answersFailedChecks (.selectHiz dom pin) dom pin none) ∧
  (∀ (s : State) (dom : BitVec 8) (pin : BitVec 16) (a : PinAddr),
    addresses dom pin a → s.life = .initialized →
      exec (.selectHiz dom pin) s = .next (afterTwoCycles s a (readPad s.pads a &&& 0xFFFBFFFF#32)
        ((readPad s.pads a &&& 0xFFFBFFFF#32) ||| 0x00200000#32)))

/-- 42_direction.md R135: a direction operation changes bits 18 and 21 only, the last one wins, and the word then decodes as
the direction named. -/
def Obligations.DirectionProperties : Prop :=
  ∀ (s : State) (dom : BitVec 8) (pin : BitVec 16) (a : PinAddr), addresses dom pin a → s.life = .initialized →
    ∀ (i : Instr) (r : Direction × Bool × Bool),
      (i, r) ∈ [(Instr.selectInput dom pin, (Direction.input, true, true)),
        (.selectOutput dom pin, (.output, false, false)), (.selectInout dom pin, (.inout, true, false)),
        (.selectHiz dom pin, (.hiz, false, true))] →
      ∃ t, exec i s = .next t ∧ readPad t.pads a &&& 0xFFDBFFFF#32 = readPad s.pads a &&& 0xFFDBFFFF#32 ∧
        (readPad t.pads a).getLsbD 18 = r.2.1 ∧ (readPad t.pads a).getLsbD 21 = r.2.2 ∧
        directionOf (readPad t.pads a) = r.1 ∧ ∃ u, exec i t = .next u ∧ u.pads = t.pads

/-- 43_pull.md R141 with the common shape of R140: SELECT_PULL_UP, its encoding, its failing checks,
and its two cycles, `PULL_EN_N` first (decision D15 of the spec). -/
def Obligations.SelectPullUpMeaning : Prop :=
  (∀ (dom : BitVec 8) (pin : BitVec 16) (wd : Word),
    decode ⟨0x8#4 ++ 0x0#4 ++ dom ++ pin, wd⟩ = .ok (.selectPullUp dom pin)) ∧
  rejectsFunctionField 0x8#4 ∧
  (∀ dom pin, answersFailedChecks (.selectPullUp dom pin) dom pin none) ∧
  (∀ (s : State) (dom : BitVec 8) (pin : BitVec 16) (a : PinAddr),
    addresses dom pin a → s.life = .initialized →
      exec (.selectPullUp dom pin) s = .next (afterTwoCycles s a (readPad s.pads a &&& 0xFFFEFFFF#32)
        ((readPad s.pads a &&& 0xFFFEFFFF#32) ||| 0x00020000#32)))

/-- 43_pull.md R142 with the common shape of R140: SELECT_PULL_DOWN, its encoding, its failing checks,
and its two cycles, `PULL_EN_N` first (decision D15 of the spec). -/
def Obligations.SelectPullDownMeaning : Prop :=
  (∀ (dom : BitVec 8) (pin : BitVec 16) (wd : Word),
    decode ⟨0x9#4 ++ 0x0#4 ++ dom ++ pin, wd⟩ = .ok (.selectPullDown dom pin)) ∧
  rejectsFunctionField 0x9#4 ∧
  (∀ dom pin, answersFailedChecks (.selectPullDown dom pin) dom pin none) ∧
  (∀ (s : State) (dom : BitVec 8) (pin : BitVec 16) (a : PinAddr),
    addresses dom pin a → s.life = .initialized →
      exec (.selectPullDown dom pin) s = .next (afterTwoCycles s a (readPad s.pads a &&& 0xFFFEFFFF#32)
        (readPad s.pads a &&& 0xFFFCFFFF#32)))

/-- 43_pull.md R143: SELECT_PULL_DISABLE, its encoding, its failing checks, and its one cycle; `PULL_SEL` is not touched. -/
def Obligations.SelectPullDisableMeaning : Prop :=
  (∀ (dom : BitVec 8) (pin : BitVec 16) (wd : Word),
    decode ⟨0xA#4 ++ 0x0#4 ++ dom ++ pin, wd⟩ = .ok (.selectPullDisable dom pin)) ∧
  rejectsFunctionField 0xA#4 ∧
  (∀ dom pin, answersFailedChecks (.selectPullDisable dom pin) dom pin none) ∧
  (∀ (s : State) (dom : BitVec 8) (pin : BitVec 16) (a : PinAddr),
    addresses dom pin a → s.life = .initialized →
      exec (.selectPullDisable dom pin) s = .next (afterCycle s a (readPad s.pads a ||| 0x00010000#32)))

/-- 43_pull.md R144: which bits the pull operations change, how the word then decodes, idempotence, and pull-up followed by
pull-disable. -/
def Obligations.PullProperties : Prop :=
  ∀ (s : State) (dom : BitVec 8) (pin : BitVec 16) (a : PinAddr), addresses dom pin a → s.life = .initialized →
    (∀ (i : Instr) (r : PullState × Bool),
      (i, r) ∈ [(Instr.selectPullUp dom pin, (PullState.up, true)), (.selectPullDown dom pin, (.down, false))] →
      ∃ t, exec i s = .next t ∧ readPad t.pads a &&& 0xFFFCFFFF#32 = readPad s.pads a &&& 0xFFFCFFFF#32 ∧
        (readPad t.pads a).getLsbD 16 = false ∧ (readPad t.pads a).getLsbD 17 = r.2 ∧
        pullOf (readPad t.pads a) = r.1 ∧ ∃ u, exec i t = .next u ∧ u.pads = t.pads) ∧
    (∃ t, exec (.selectPullDisable dom pin) s = .next t ∧
      readPad t.pads a &&& 0xFFFEFFFF#32 = readPad s.pads a &&& 0xFFFEFFFF#32 ∧
      (readPad t.pads a).getLsbD 16 = true ∧ pullOf (readPad t.pads a) = .disabled ∧
      ∃ u, exec (.selectPullDisable dom pin) t = .next u ∧ u.pads = t.pads) ∧
    (∃ t u, exec (.selectPullUp dom pin) s = .next t ∧ exec (.selectPullDisable dom pin) t = .next u ∧
      (readPad u.pads a).getLsbD 16 = true ∧ (readPad u.pads a).getLsbD 17 = true)

/-- Each of the eight SELECT operations, on any operands in any state, leaves the registers the same when issued twice as
when issued once (41_function_select.md R126, 42_direction.md R135, 43_pull.md R144). -/
def Obligations.SelectIdempotent : Prop :=
  ∀ (i : Instr) (s : State), isSelect i = true →
    ∃ t u, exec i s = .next t ∧ exec i t = .next u ∧ u.pads = t.pads

/-- Direction, pull and function selection do not disturb one another: two SELECT operations of different kinds on the same
pin leave the same word in either order (20_memory.md R76). -/
def Obligations.SelectKindsCommute : Prop :=
  ∀ (s : State) (dom : BitVec 8) (pin : BitVec 16) (fn : BitVec 4) (d p : Instr),
    (d ∈ [Instr.selectInput dom pin, .selectOutput dom pin, .selectInout dom pin, .selectHiz dom pin] ∧
      p ∈ [Instr.selectPullUp dom pin, .selectPullDown dom pin, .selectPullDisable dom pin,
        .selectFunction dom pin fn]) ∨
    (d ∈ [Instr.selectPullUp dom pin, .selectPullDown dom pin, .selectPullDisable dom pin] ∧
      p = .selectFunction dom pin fn) →
      ∃ t u t' u', exec d s = .next t ∧ exec p t = .next u ∧ exec p s = .next t' ∧ exec d t' = .next u' ∧
        u.pads = u'.pads

/-! ### Whole-register access and DUMP -/

/-- 44_raw_access.md R150: GET_RAW, its encoding, its failing checks with the sentinel, and its one read of all 32 bits. -/
def Obligations.GetRawMeaning : Prop :=
  (∀ (dom : BitVec 8) (pin : BitVec 16) (wd : Word),
    decode ⟨0xB#4 ++ 0x0#4 ++ dom ++ pin, wd⟩ = .ok (.getRaw dom pin)) ∧
  rejectsFunctionField 0xB#4 ∧
  (∀ dom pin, answersFailedChecks (.getRaw dom pin) dom pin (some 0xFFFFFFFF#32)) ∧
  (∀ (s : State) (dom : BitVec 8) (pin : BitVec 16) (a : PinAddr),
    addresses dom pin a → s.life = .initialized →
      exec (.getRaw dom pin) s = .next (afterRead s a (readPad s.pads a)))

/-- 44_raw_access.md R151: SET_RAW, its encoding, its failing checks, and its one write with no read. -/
def Obligations.SetRawMeaning : Prop :=
  (∀ (dom : BitVec 8) (pin : BitVec 16) (v : Word),
    decode ⟨0xC#4 ++ 0x0#4 ++ dom ++ pin, v⟩ = .ok (.setRaw dom pin v)) ∧
  rejectsFunctionField 0xC#4 ∧
  (∀ dom pin v, answersFailedChecks (.setRaw dom pin v) dom pin none) ∧
  (∀ (s : State) (dom : BitVec 8) (pin : BitVec 16) (v : Word) (a : PinAddr),
    addresses dom pin a → s.life = .initialized →
      ∃ t, exec (.setRaw dom pin v) s = .next t ∧ readPad t.pads a = v ∧
        (∀ b, b ≠ a → readPad t.pads b = readPad s.pads b) ∧ t.access = s.access ++ [.wr a v] ∧
        t.responses = s.responses ++ [⟨.ok, none⟩] ∧ sameControl s t ∧ sameInputs s t)

/-- 44_raw_access.md R152: SET_RAW then GET_RAW of the same register answers the word written, for every word. -/
def Obligations.SetThenGetReturnsWord : Prop :=
  ∀ (s : State) (dom : BitVec 8) (pin : BitVec 16) (v : Word) (a : PinAddr),
    addresses dom pin a → s.life = .initialized →
      ∃ t u, exec (.setRaw dom pin v) s = .next t ∧ exec (.getRaw dom pin) t = .next u ∧
        u.responses = t.responses ++ [⟨.ok, some v⟩]

/-- 44_raw_access.md R153: GET_RAW of a register holding all ones and GET_RAW of an invalid domain, by default, give the
same response. -/
def Obligations.SentinelAmbiguous : Prop :=
  ∀ (s : State) (dom dom' : BitVec 8) (pin pin' : BitVec 16) (a : PinAddr),
    addresses dom pin a → s.life = .initialized → s.cfg.strictDomain = false → 2 ≤ dom'.toNat →
    readPad s.pads a = 0xFFFFFFFF#32 →
      ∃ t t', exec (.getRaw dom pin) s = .next t ∧ exec (.getRaw dom' pin') s = .next t' ∧
        t.responses = t'.responses

/-- 45_dump.md R160: DUMP, its encoding, its failing checks, its one read, and the record it answers. -/
def Obligations.DumpMeaning : Prop :=
  (∀ (dom : BitVec 8) (pin : BitVec 16) (wd : Word),
    decode ⟨0xD#4 ++ 0x0#4 ++ dom ++ pin, wd⟩ = .ok (.dump dom pin)) ∧
  rejectsFunctionField 0xD#4 ∧
  (∀ dom pin, answersFailedChecks (.dump dom pin) dom pin none) ∧
  (∀ (s : State) (dom : BitVec 8) (pin : BitVec 16) (a : PinAddr),
    addresses dom pin a → s.life = .initialized →
      exec (.dump dom pin) s = .next (afterRead s a (dumpWord
        ⟨directionOf (readPad s.pads a), pullOf (readPad s.pads a), (readPad s.pads a).setWidth 4⟩)))

/-- 45_dump.md R161 and R162: the direction and the pull state a register word decodes to. -/
def Obligations.FieldDecoding : Prop :=
  ∀ v : Word,
    (v &&& 0x00240000#32 = 0x00240000#32 → directionOf v = .input) ∧
    (v &&& 0x00240000#32 = 0x00000000#32 → directionOf v = .output) ∧
    (v &&& 0x00240000#32 = 0x00040000#32 → directionOf v = .inout) ∧
    (v &&& 0x00240000#32 = 0x00200000#32 → directionOf v = .hiz) ∧
    (v &&& 0x00010000#32 = 0x00010000#32 → pullOf v = .disabled) ∧
    (v &&& 0x00030000#32 = 0x00020000#32 → pullOf v = .up) ∧
    (v &&& 0x00030000#32 = 0x00000000#32 → pullOf v = .down)

/-- 45_dump.md R163: the encoding of a record in `RDATA`, from which the record can be read back. -/
def Obligations.DumpRecordEncoding : Prop :=
  ∀ r : DumpRecord,
    (dumpWord r).setWidth 4 = r.mux ∧
    (dumpWord r >>> 4 &&& 3#32 = match r.dir with
      | .input => 0#32 | .output => 1#32 | .inout => 2#32 | .hiz => 3#32) ∧
    (dumpWord r >>> 6 &&& 3#32 = match r.pull with
      | .disabled => 0#32 | .up => 1#32 | .down => 2#32) ∧
    dumpWord r >>> 8 = 0#32

/-- DUMP tells nothing of the undefined bits of a register, nor of any other register: two states that agree on the defined
fields of the register addressed give the same response (45_dump.md R162). -/
def Obligations.DumpHidesUndefinedBits : Prop :=
  ∀ (s s' : State) (dom : BitVec 8) (pin : BitVec 16) (a : PinAddr),
    addresses dom pin a → s.life = .initialized → s'.life = .initialized →
    readPad s.pads a &&& 0x0027000F#32 = readPad s'.pads a &&& 0x0027000F#32 →
      ∃ t t' r, exec (.dump dom pin) s = .next t ∧ exec (.dump dom pin) s' = .next t' ∧
        t.responses = s.responses ++ [r] ∧ t'.responses = s'.responses ++ [r]

/-! ### Frames -/

/-- The frame of the nine mutating pin commands and of the two reading ones, for every form: control state, resources,
parameters and inputs are as before; no register but the addressed one changes; if the checks fail no register is accessed
or changed; every byte outside the four bytes at the address of the register the checks yield reads as before
(10_state.md R32). -/
def Obligations.PinCommandFrame : Prop :=
  ∀ (i : Instr) (dom : BitVec 8) (pin : BitVec 16) (s : State), i.pinOperands = some (dom, pin) →
    ∃ t, exec i s = .next t ∧ sameControl s t ∧ sameInputs s t ∧
      (∀ b, ¬ addresses dom pin b → readPad t.pads b = readPad s.pads b) ∧
      (∀ a, checks dom pin s = .passed a → ∀ addr,
        addr < physAddr s.cfg.chip a ∨ physAddr s.cfg.chip a + 4 ≤ addr →
          readByte? t.cfg.chip t.pads addr = readByte? s.cfg.chip s.pads addr) ∧
      ((∀ a, checks dom pin s ≠ .passed a) → t.pads = s.pads ∧ t.access = s.access)

/-- GET_RAW and DUMP store nothing, in every form: every register and every byte reads as before, and nothing changes but
the access trace and the responses (44_raw_access.md R150, 45_dump.md R160, R164). -/
def Obligations.ReadingCommandsStoreNothing : Prop :=
  ∀ (i : Instr) (dom : BitVec 8) (pin : BitVec 16) (s : State), i = .getRaw dom pin ∨ i = .dump dom pin →
    ∃ t, exec i s = .next t ∧ t.pads = s.pads ∧ sameControl s t ∧ sameInputs s t ∧
      ∀ addr, readByte? t.cfg.chip t.pads addr = readByte? s.cfg.chip s.pads addr

/-- The register accesses of a command: as many as 70_reset_and_hazards.md R221 counts, all on the register addressed; none
if a check fails. -/
def Obligations.AccessCounts : Prop :=
  (∀ (i : Instr) (dom : BitVec 8) (pin : BitVec 16) (s : State), i.pinOperands = some (dom, pin) →
    ∃ t evs, exec i s = .next t ∧ t.access = s.access ++ evs ∧
      (∀ a, checks dom pin s = .passed a →
        evs.length = accessCount i ∧ ∀ e ∈ evs, eventAddr e = a) ∧
      ((∀ a, checks dom pin s ≠ .passed a) → evs = [])) ∧
  (∀ (i : Instr) (s : State), i = .init ∨ i = .deinit → ∃ t, exec i s = .next t ∧ t.access = s.access)

/-! ### Register access -/

/-- 20_memory.md R58: one read-modify-write cycle, with bits outside the mask kept and bits inside replaced. -/
def Obligations.ReadModifyWriteCycle : Prop :=
  ∀ (a : PinAddr) (mask val : Word) (s : State),
    ∃ nv, rmw a mask val s = { s with pads := writePad s.pads a nv
                                      access := s.access ++ [.rd a (readPad s.pads a), .wr a nv] } ∧
      nv = (readPad s.pads a &&& ~~~mask) ||| (val &&& mask) ∧
      readPad (rmw a mask val s).pads a &&& ~~~mask = readPad s.pads a &&& ~~~mask ∧
      readPad (rmw a mask val s).pads a &&& mask = val &&& mask

/-- 20_memory.md R76: the field update is idempotent, and two updates with disjoint masks commute. -/
def Obligations.FieldUpdateAlgebra : Prop :=
  (∀ t m v : Word, fieldUpdate t m v = (t &&& ~~~m) ||| (v &&& m)) ∧
  (∀ t m v : Word, fieldUpdate (fieldUpdate t m v) m v = fieldUpdate t m v) ∧
  (∀ t m v m' v' : Word, m &&& m' = 0#32 →
    fieldUpdate (fieldUpdate t m v) m' v' = fieldUpdate (fieldUpdate t m' v') m v)

/-- The byte-addressed forms are the register accesses at a register's physical address with size 4 (20_memory.md R59). R59
and R56 give them no meaning at any other address or size, nor in Uninitialized: that they answer an error there, and which,
is the model's choice (log 15). -/
def Obligations.ByteAddressedAccess : Prop :=
  (∀ (s : State) (a : PinAddr) (v : Word), s.life = .initialized →
    memRead (physAddr s.cfg.chip a) 4 s = .ok (regRead a s) ∧
    memWrite (physAddr s.cfg.chip a) 4 v s = .ok (regWrite a v s)) ∧
  (∀ (s : State) (addr n : Nat) (v : Word), (n ≠ 4 ∨ ∀ a, addr ≠ physAddr s.cfg.chip a) →
    (∃ f, memRead addr n s = .error f) ∧ ∃ f, memWrite addr n v s = .error f) ∧
  (∀ (s : State) (addr n : Nat) (v : Word), s.life = .uninitialized →
    memRead addr n s = .error .windowNotMapped ∧ memWrite addr n v s = .error .windowNotMapped)

/-! ### Windows -/

/-- 20_memory.md R52: the two windows never overlap, and two different valid pin addresses never name the same register, on
any chip. -/
def Obligations.PhysicalAddressesDistinct : Prop :=
  (∀ (c : Chip) (addr : Nat), c.params.physMain ≤ addr → addr < c.params.physMain + 780 →
    addr < c.params.physWakeup ∨ c.params.physWakeup + 280 ≤ addr) ∧
  (∀ (c : Chip) (a b : PinAddr), physAddr c a = physAddr c b → a = b)

/-- Every register lies word-aligned in its window, below the top of the address space (20_memory.md R50, R51, R62, R75). -/
def Obligations.RegistersInsideWindow : Prop :=
  ∀ (c : Chip) (a : PinAddr), physAddr c a = c.params.physBase a.dom + 4 * a.idx.val ∧
    physAddr c a % 4 = 0 ∧ physAddr c a + 4 ≤ c.params.physBase a.dom + mapLen a.dom ∧
    physAddr c a + 4 ≤ 2 ^ c.params.addrW

/-- The page-aligned target and the in-page offset of a window sum to its base, and the target is page-aligned
(20_memory.md R64, R75). -/
def Obligations.TargetPlusOffsetIsBase : Prop :=
  ∀ (c : Chip) (d : Domain), mapTarget c d + pageOffset c d = c.params.physBase d ∧
    mapTarget c d % c.params.pageSize = 0

/-- Through the mapping, the mapped address of a register reaches its physical address, for every register and every base
the environment returns (20_memory.md R65, R66), and, where the integrator's bases are the true ones, the address at which
that register really is (70_reset_and_hazards.md R207; log 18). The translation itself is general knowledge of the spec's
(log 10), and that the sums are not reduced to `ADDR_W` bits is the model's choice (log 16). -/
def Obligations.MappingReachesEveryRegister : Prop :=
  ∀ (c : Chip) (a : PinAddr) (base : Nat),
    translateMapped c a.dom base (mappedAddr (base + pageOffset c a.dom) a) = some (physAddr c a) ∧
    (c.BasesCorrect →
      translateMapped c a.dom base (mappedAddr (base + pageOffset c a.dom) a) = some (physAddr Config.trueChip a))

/-- The bytes of a register are little-endian at its physical address (20_memory.md R60). -/
def Obligations.ByteOrder : Prop :=
  ∀ (c : Chip) (P : Pads) (a : PinAddr),
    readByte? c P (physAddr c a) = some ((readPad P a).setWidth 8) ∧
    readByte? c P (physAddr c a + 1) = some ((readPad P a >>> 8).setWidth 8) ∧
    readByte? c P (physAddr c a + 2) = some ((readPad P a >>> 16).setWidth 8) ∧
    readByte? c P (physAddr c a + 3) = some ((readPad P a >>> 24).setWidth 8)

/-! ### Invariants -/

/-- At every command boundary one of the two situations of 10_state.md R38 holds and nothing is leaked (40_lifecycle.md
R117): every step from such a state ends in such a state. -/
def Obligations.BoundaryInvariantKept : Prop :=
  ∀ s t : State, boundaryInv s → step s = .next t → boundaryInv t

/-- The reset state is such a state. -/
def Obligations.BoundaryInvariantAtReset : Prop := boundaryInv State.reset

/-- The resource account never breaks: whatever a step appends to the resource trace acquires nothing twice and releases
nothing that is not held, and the account agrees with what the state holds (40_lifecycle.md R117). -/
def Obligations.ResourceAccount : Prop :=
  ∀ s t : State, controlCoherent s → step s = .next t →
    ∃ evs, t.resource = s.resource ++ evs ∧ account (heldNow s) evs = some (heldNow t)
end

