-- ==== Sys2Proof/Laws/Decode.lean ====
section
/-! SUPPORT. A command word as its four fields (30_encoding.md R81), and what a row of the opcode map asks of them (R87). -/

namespace Sys2Proof

@[simp] theorem fieldOp_commandWord (op fn : BitVec 4) (dom : BitVec 8) (pin : BitVec 16) :
    fieldOp (commandWord op fn dom pin) = op := by
  unfold fieldOp commandWord
  rw [BitVec.extractLsb'_append_eq_of_le (by omega), BitVec.extractLsb'_append_eq_of_le (by omega),
    BitVec.extractLsb'_append_eq_of_le (by omega)]
  exact BitVec.extractLsb'_eq_self

@[simp] theorem fieldFn_commandWord (op fn : BitVec 4) (dom : BitVec 8) (pin : BitVec 16) :
    fieldFn (commandWord op fn dom pin) = fn := by
  unfold fieldFn commandWord
  rw [BitVec.extractLsb'_append_eq_of_le (by omega), BitVec.extractLsb'_append_eq_of_le (by omega)]
  exact BitVec.extractLsb'_append_eq_right

@[simp] theorem fieldDom_commandWord (op fn : BitVec 4) (dom : BitVec 8) (pin : BitVec 16) :
    fieldDom (commandWord op fn dom pin) = dom := by
  unfold fieldDom commandWord
  rw [BitVec.extractLsb'_append_eq_of_le (by omega)]
  exact BitVec.extractLsb'_append_eq_right

@[simp] theorem fieldPin_commandWord (op fn : BitVec 4) (dom : BitVec 8) (pin : BitVec 16) :
    fieldPin (commandWord op fn dom pin) = pin := by
  unfold fieldPin commandWord
  exact BitVec.extractLsb'_append_eq_right

/-- A word is its four fields; no bit of it lies outside them. -/
theorem commandWord_fields (w : Word) :
    commandWord (fieldOp w) (fieldFn w) (fieldDom w) (fieldPin w) = w := by
  unfold commandWord fieldOp fieldFn fieldDom fieldPin
  rw [BitVec.extractLsb'_append_extractLsb'_eq_extractLsb' (by rfl),
    BitVec.extractLsb'_append_extractLsb'_eq_extractLsb' (by rfl),
    BitVec.extractLsb'_append_extractLsb'_eq_extractLsb' (by rfl)]
  exact BitVec.extractLsb'_eq_self

theorem commandWord_and (op fn op' fn' : BitVec 4) (dom dom' : BitVec 8) (pin pin' : BitVec 16) :
    commandWord op fn dom pin &&& commandWord op' fn' dom' pin' =
      commandWord (op &&& op') (fn &&& fn') (dom &&& dom') (pin &&& pin') := by
  unfold commandWord
  rw [BitVec.and_append, BitVec.and_append, BitVec.and_append]

theorem commandWord_inj (op fn op' fn' : BitVec 4) (dom dom' : BitVec 8) (pin pin' : BitVec 16) :
    commandWord op fn dom pin = commandWord op' fn' dom' pin' ↔
      op = op' ∧ fn = fn' ∧ dom = dom' ∧ pin = pin' := by
  constructor
  · intro h
    exact ⟨by simpa using congrArg fieldOp h, by simpa using congrArg fieldFn h,
      by simpa using congrArg fieldDom h, by simpa using congrArg fieldPin h⟩
  · rintro ⟨rfl, rfl, rfl, rfl⟩
    rfl

/-- A row with mask 0xF0000000 asks for its `OP` and nothing else. -/
theorem and_maskOp_eq (w : Word) (op : BitVec 4) :
    w &&& 0xF0000000#32 = commandWord op 0#4 0#8 0#16 ↔ fieldOp w = op := by
  have hm : 0xF0000000#32 = commandWord 0xF#4 0#4 0#8 0#16 := by decide
  rw [hm, ← commandWord_fields w, commandWord_and, commandWord_inj]
  have hall : ∀ x : BitVec 4, x &&& 0xF#4 = x := by decide
  simp [hall]

/-- A row with mask 0xFF000000 asks for its `OP` and `FN`. -/
theorem and_maskOpFn_eq (w : Word) (op fn : BitVec 4) :
    w &&& 0xFF000000#32 = commandWord op fn 0#8 0#16 ↔ fieldOp w = op ∧ fieldFn w = fn := by
  have hm : 0xFF000000#32 = commandWord 0xF#4 0xF#4 0#8 0#16 := by decide
  rw [hm, ← commandWord_fields w, commandWord_and, commandWord_inj]
  have hall : ∀ x : BitVec 4, x &&& 0xF#4 = x := by decide
  simp [hall]

/-- The row that accepts a word has the word's `OP`. -/
theorem fieldOp_of_accepts (w : Word) (r : Row) (hr : r ∈ opcodeRows) (ha : w &&& r.mask = r.pattern) :
    fieldOp w = fieldOp r.pattern := by
  have hmask : ∀ r ∈ opcodeRows, r.mask &&& 0xF0000000#32 = 0xF0000000#32 := by decide
  have hpat : ∀ r ∈ opcodeRows,
      r.pattern &&& 0xF0000000#32 = commandWord (fieldOp r.pattern) 0#4 0#8 0#16 := by decide
  have h : w &&& 0xF0000000#32 = r.pattern &&& 0xF0000000#32 := by
    rw [← ha, BitVec.and_assoc, hmask r hr]
  rw [hpat r hr] at h
  exact (and_maskOp_eq w _).1 h

/-- Everything decoding can do (30_encoding.md R87): the row that accepts the word gives the operation, whichever row of the
map it is; if none accepts, the word is rejected. -/
theorem decode_of_accepts (c : Command) (r : Row) (hr : r ∈ opcodeRows) (ha : c.cmd &&& r.mask = r.pattern) :
    decode c = .ok (operandsOf r.op c) := by
  unfold decode
  cases h : opcodeRows.find? (fun r => r.accepts c.cmd) with
  | none =>
    rw [List.find?_eq_none] at h
    exact absurd (beq_iff_eq.2 ha) (h r hr)
  | some r' =>
    have hr' := List.mem_of_find?_eq_some h
    have ha' : c.cmd &&& r'.mask = r'.pattern :=
      beq_iff_eq.1 (List.find?_some (p := fun r : Row => r.accepts c.cmd) h)
    have hop := (fieldOp_of_accepts c.cmd r hr ha).symm.trans (fieldOp_of_accepts c.cmd r' hr' ha')
    have hinj : ∀ r ∈ opcodeRows, ∀ r' ∈ opcodeRows, fieldOp r.pattern = fieldOp r'.pattern → r' = r := by decide
    rw [hinj r hr r' hr' hop]

theorem decode_eq_ok (c : Command) (i : Instr) (h : decode c = .ok i) :
    ∃ r ∈ opcodeRows, c.cmd &&& r.mask = r.pattern ∧ i = operandsOf r.op c := by
  unfold decode at h
  split at h
  · next r hr =>
    cases h
    exact ⟨r, List.mem_of_find?_eq_some hr,
      beq_iff_eq.1 (List.find?_some (p := fun r : Row => r.accepts c.cmd) hr), rfl⟩
  · cases h

theorem decode_eq_error (c : Command) (h : ∀ r ∈ opcodeRows, c.cmd &&& r.mask ≠ r.pattern) :
    decode c = .error (illegalReason c.cmd) := by
  have hn : opcodeRows.find? (fun r => r.accepts c.cmd) = none :=
    List.find?_eq_none.2 fun r hr ha => h r hr (beq_iff_eq.1 ha)
  unfold decode
  rw [hn]

theorem accepts_op4 (o : Op) (op fn : BitVec 4) (dom : BitVec 8) (pin : BitVec 16) (pattern : Word)
    (h : commandWord op 0#4 0#8 0#16 = pattern) :
    Row.accepts ⟨o, 0xF0000000#32, pattern⟩ (commandWord op fn dom pin) = true := by
  rw [← h]
  exact beq_iff_eq.2 ((and_maskOp_eq _ _).2 (fieldOp_commandWord op fn dom pin))

theorem accepts_op8 (o : Op) (op : BitVec 4) (dom : BitVec 8) (pin : BitVec 16) (pattern : Word)
    (h : commandWord op 0#4 0#8 0#16 = pattern) :
    Row.accepts ⟨o, 0xFF000000#32, pattern⟩ (commandWord op 0#4 dom pin) = true := by
  rw [← h]
  exact beq_iff_eq.2 ((and_maskOpFn_eq _ _ _).2
    ⟨fieldOp_commandWord op 0#4 dom pin, fieldFn_commandWord op 0#4 dom pin⟩)

end Sys2Proof
end

