-- ==== Sys2Proof/Laws/Pads.lean ====
section
/-! SUPPORT. The laws of the pad registers and of their byte view: reading after writing, and the windows' addresses. -/

namespace Sys2Proof.Machine

open Sys2Proof

theorem readPad_writePad_same (P : Pads) (a : PinAddr) (v : Word) : readPad (writePad P a v) a = v := by
  obtain ⟨d, p⟩ := a
  cases d <;> simp [readPad, writePad]

theorem readPad_writePad_other (P : Pads) (a b : PinAddr) (v : Word) (h : b ≠ a) :
    readPad (writePad P a v) b = readPad P b := by
  obtain ⟨d, p⟩ := a
  obtain ⟨e, q⟩ := b
  cases d <;> cases e <;> simp_all [readPad, writePad]
  all_goals
    apply Vector.getElem_set_ne
    intro hpq
    exact h (Fin.ext hpq.symm)

theorem readPad_writePad (P : Pads) (a b : PinAddr) (v : Word) :
    readPad (writePad P a v) b = if b = a then v else readPad P b := by
  split
  · next h => rw [h, readPad_writePad_same]
  · next h => exact readPad_writePad_other P a b v h

theorem writePad_writePad (P : Pads) (a : PinAddr) (v w : Word) :
    writePad (writePad P a v) a w = writePad P a w := by
  obtain ⟨d, p⟩ := a
  cases d <;> simp [writePad]

/-- Two register files that read alike at every pin address are equal. -/
theorem pads_ext (P Q : Pads) (h : ∀ a, readPad P a = readPad Q a) : P = Q := by
  obtain ⟨m, w⟩ := P
  obtain ⟨m', w'⟩ := Q
  congr 1
  · apply Vector.ext
    intro i hi
    exact h ⟨.main, ⟨i, hi⟩⟩
  · apply Vector.ext
    intro i hi
    exact h ⟨.wakeup, ⟨i, hi⟩⟩

/-- Writing the word a register already holds changes nothing. -/
theorem writePad_readPad (P : Pads) (a : PinAddr) : writePad P a (readPad P a) = P := by
  apply pads_ext
  intro b
  rw [readPad_writePad]
  split
  · next h => rw [h]
  · rfl

theorem readPad_reset (a : PinAddr) : readPad Pads.reset a = Config.freeResetPad a.dom a.idx.val := by
  obtain ⟨d, p⟩ := a
  cases d <;> simp [readPad, Pads.reset]

/-! ### Addresses of the registers -/

/-- Each register's four bytes lie inside its domain's window (20_memory.md R50, R51). -/
theorem physAddr_bounds (c : Chip) (a : PinAddr) :
    c.params.physBase a.dom ≤ physAddr c a ∧ physAddr c a + 4 ≤ c.params.physBase a.dom + 4 * a.dom.count := by
  have := a.idx.isLt
  simp only [physAddr]
  omega

/-- The two windows share no byte (00_scope.md R11 (d)). -/
theorem windows_disjoint (c : Chip) :
    c.params.physBase .main + 4 * Domain.count .main ≤ c.params.physBase .wakeup ∨
      c.params.physBase .wakeup + 4 * Domain.count .wakeup ≤ c.params.physBase .main := by
  simpa [ChipParams.physBase, Domain.count] using c.valid.2.2.2

theorem registerIn?_eq_some (c : Chip) (d : Domain) (addr : Nat) (a : PinAddr) :
    registerIn? c d addr = some a ↔ a.dom = d ∧ physAddr c a ≤ addr ∧ addr < physAddr c a + 4 := by
  obtain ⟨e, q⟩ := a
  unfold registerIn? physAddr
  constructor
  · intro h
    split at h
    · next hb =>
      simp only [Option.some.injEq, PinAddr.mk.injEq] at h
      obtain ⟨rfl, h2⟩ := h
      have h3 : (addr - c.params.physBase d) / 4 = q.val := by simpa [Fin.ext_iff] using h2
      refine ⟨rfl, ?_, ?_⟩ <;> dsimp only <;> omega
    · cases h
  · rintro ⟨rfl, h1, h2⟩
    have hq := q.isLt
    dsimp only at h1 h2 hq ⊢
    have h3 : (addr - c.params.physBase e) / 4 = q.val := by omega
    rw [dif_pos ⟨by omega, by omega⟩]
    simp [h3]

/-- A byte address belongs to a register exactly when it is one of that register's four bytes (20_memory.md R50, R60). -/
theorem registerAt?_eq_some (c : Chip) (addr : Nat) (a : PinAddr) :
    registerAt? c addr = some a ↔ physAddr c a ≤ addr ∧ addr < physAddr c a + 4 := by
  have hd := windows_disjoint c
  have ha := physAddr_bounds c a
  unfold registerAt?
  cases hm : registerIn? c .main addr with
  | some b =>
    obtain ⟨hb, hb1, hb2⟩ := (registerIn?_eq_some c .main addr b).1 hm
    have hbb := physAddr_bounds c b
    rw [hb] at hbb
    simp only [Option.some.injEq]
    constructor
    · rintro rfl
      exact ⟨hb1, hb2⟩
    · rintro ⟨h1, h2⟩
      have hdom : a.dom = .main := by
        cases h : a.dom with
        | main => rfl
        | wakeup => rw [h] at ha; omega
      have := (registerIn?_eq_some c .main addr a).2 ⟨hdom, h1, h2⟩
      rw [hm] at this
      exact Option.some.inj this
  | none =>
    dsimp only
    rw [registerIn?_eq_some]
    constructor
    · rintro ⟨_, h1, h2⟩
      exact ⟨h1, h2⟩
    · rintro ⟨h1, h2⟩
      refine ⟨?_, h1, h2⟩
      cases h : a.dom with
      | wakeup => rfl
      | main => exact absurd ((registerIn?_eq_some c .main addr a).2 ⟨h, h1, h2⟩) (by rw [hm]; simp)

/-- Storing a register leaves every byte outside its four bytes as it was. -/
theorem readByte?_writePad_outside (c : Chip) (P : Pads) (a : PinAddr) (v : Word) (addr : Nat)
    (h : addr < physAddr c a ∨ physAddr c a + 4 ≤ addr) :
    readByte? c (writePad P a v) addr = readByte? c P addr := by
  unfold readByte?
  cases hr : registerAt? c addr with
  | none => rfl
  | some b =>
    have hb := (registerAt?_eq_some c addr b).1 hr
    have hne : b ≠ a := by
      rintro rfl
      omega
    simp only [readPad_writePad_other P a b v hne]

end Sys2Proof.Machine
end

