-- ==== Sys2Proof/Laws/State.lean ====
section
/-! SUPPORT. One lemma per field of State per update, true by rfl, so that no proof unfolds a record update. -/

namespace Sys2Proof.Machine

open Sys2Proof

section respond
variable (r : Response) (s : State)
@[simp] theorem respond_cfg : (respond r s).cfg = s.cfg := rfl
@[simp] theorem respond_pads : (respond r s).pads = s.pads := rfl
@[simp] theorem respond_life : (respond r s).life = s.life := rfl
@[simp] theorem respond_devOpen : (respond r s).devOpen = s.devOpen := rfl
@[simp] theorem respond_winMain : (respond r s).winMain = s.winMain := rfl
@[simp] theorem respond_winWakeup : (respond r s).winWakeup = s.winWakeup := rfl
@[simp] theorem respond_host : (respond r s).host = s.host := rfl
@[simp] theorem respond_env : (respond r s).env = s.env := rfl
@[simp] theorem respond_draws : (respond r s).draws = s.draws := rfl
@[simp] theorem respond_responses : (respond r s).responses = s.responses ++ [r] := rfl
@[simp] theorem respond_access : (respond r s).access = s.access := rfl
@[simp] theorem respond_resource : (respond r s).resource = s.resource := rfl
end respond

section emitAccess
variable (e : AccessEvent) (s : State)
@[simp] theorem emitAccess_cfg : (emitAccess e s).cfg = s.cfg := rfl
@[simp] theorem emitAccess_pads : (emitAccess e s).pads = s.pads := rfl
@[simp] theorem emitAccess_life : (emitAccess e s).life = s.life := rfl
@[simp] theorem emitAccess_devOpen : (emitAccess e s).devOpen = s.devOpen := rfl
@[simp] theorem emitAccess_winMain : (emitAccess e s).winMain = s.winMain := rfl
@[simp] theorem emitAccess_winWakeup : (emitAccess e s).winWakeup = s.winWakeup := rfl
@[simp] theorem emitAccess_host : (emitAccess e s).host = s.host := rfl
@[simp] theorem emitAccess_env : (emitAccess e s).env = s.env := rfl
@[simp] theorem emitAccess_draws : (emitAccess e s).draws = s.draws := rfl
@[simp] theorem emitAccess_responses : (emitAccess e s).responses = s.responses := rfl
@[simp] theorem emitAccess_access : (emitAccess e s).access = s.access ++ [e] := rfl
@[simp] theorem emitAccess_resource : (emitAccess e s).resource = s.resource := rfl
end emitAccess

section emitResource
variable (e : ResourceEvent) (s : State)
@[simp] theorem emitResource_cfg : (emitResource e s).cfg = s.cfg := rfl
@[simp] theorem emitResource_pads : (emitResource e s).pads = s.pads := rfl
@[simp] theorem emitResource_life : (emitResource e s).life = s.life := rfl
@[simp] theorem emitResource_devOpen : (emitResource e s).devOpen = s.devOpen := rfl
@[simp] theorem emitResource_winMain : (emitResource e s).winMain = s.winMain := rfl
@[simp] theorem emitResource_winWakeup : (emitResource e s).winWakeup = s.winWakeup := rfl
@[simp] theorem emitResource_host : (emitResource e s).host = s.host := rfl
@[simp] theorem emitResource_env : (emitResource e s).env = s.env := rfl
@[simp] theorem emitResource_draws : (emitResource e s).draws = s.draws := rfl
@[simp] theorem emitResource_responses : (emitResource e s).responses = s.responses := rfl
@[simp] theorem emitResource_access : (emitResource e s).access = s.access := rfl
@[simp] theorem emitResource_resource : (emitResource e s).resource = s.resource ++ [e] := rfl
end emitResource

section setPad
variable (a : PinAddr) (v : Word) (s : State)
@[simp] theorem setPad_cfg : (setPad a v s).cfg = s.cfg := rfl
@[simp] theorem setPad_pads : (setPad a v s).pads = writePad s.pads a v := rfl
@[simp] theorem setPad_life : (setPad a v s).life = s.life := rfl
@[simp] theorem setPad_devOpen : (setPad a v s).devOpen = s.devOpen := rfl
@[simp] theorem setPad_winMain : (setPad a v s).winMain = s.winMain := rfl
@[simp] theorem setPad_winWakeup : (setPad a v s).winWakeup = s.winWakeup := rfl
@[simp] theorem setPad_host : (setPad a v s).host = s.host := rfl
@[simp] theorem setPad_env : (setPad a v s).env = s.env := rfl
@[simp] theorem setPad_draws : (setPad a v s).draws = s.draws := rfl
@[simp] theorem setPad_responses : (setPad a v s).responses = s.responses := rfl
@[simp] theorem setPad_access : (setPad a v s).access = s.access := rfl
@[simp] theorem setPad_resource : (setPad a v s).resource = s.resource := rfl
end setPad

section setLife
variable (l : Life) (s : State)
@[simp] theorem setLife_cfg : (setLife l s).cfg = s.cfg := rfl
@[simp] theorem setLife_pads : (setLife l s).pads = s.pads := rfl
@[simp] theorem setLife_life : (setLife l s).life = l := rfl
@[simp] theorem setLife_devOpen : (setLife l s).devOpen = s.devOpen := rfl
@[simp] theorem setLife_winMain : (setLife l s).winMain = s.winMain := rfl
@[simp] theorem setLife_winWakeup : (setLife l s).winWakeup = s.winWakeup := rfl
@[simp] theorem setLife_host : (setLife l s).host = s.host := rfl
@[simp] theorem setLife_env : (setLife l s).env = s.env := rfl
@[simp] theorem setLife_draws : (setLife l s).draws = s.draws := rfl
@[simp] theorem setLife_responses : (setLife l s).responses = s.responses := rfl
@[simp] theorem setLife_access : (setLife l s).access = s.access := rfl
@[simp] theorem setLife_resource : (setLife l s).resource = s.resource := rfl
end setLife

section setDevOpen
variable (b : Bool) (s : State)
@[simp] theorem setDevOpen_cfg : (setDevOpen b s).cfg = s.cfg := rfl
@[simp] theorem setDevOpen_pads : (setDevOpen b s).pads = s.pads := rfl
@[simp] theorem setDevOpen_life : (setDevOpen b s).life = s.life := rfl
@[simp] theorem setDevOpen_devOpen : (setDevOpen b s).devOpen = b := rfl
@[simp] theorem setDevOpen_winMain : (setDevOpen b s).winMain = s.winMain := rfl
@[simp] theorem setDevOpen_winWakeup : (setDevOpen b s).winWakeup = s.winWakeup := rfl
@[simp] theorem setDevOpen_host : (setDevOpen b s).host = s.host := rfl
@[simp] theorem setDevOpen_env : (setDevOpen b s).env = s.env := rfl
@[simp] theorem setDevOpen_draws : (setDevOpen b s).draws = s.draws := rfl
@[simp] theorem setDevOpen_responses : (setDevOpen b s).responses = s.responses := rfl
@[simp] theorem setDevOpen_access : (setDevOpen b s).access = s.access := rfl
@[simp] theorem setDevOpen_resource : (setDevOpen b s).resource = s.resource := rfl
end setDevOpen

section setWindowMain
variable (w : Window) (s : State)
@[simp] theorem setWindowMain_cfg : (setWindow .main w s).cfg = s.cfg := rfl
@[simp] theorem setWindowMain_pads : (setWindow .main w s).pads = s.pads := rfl
@[simp] theorem setWindowMain_life : (setWindow .main w s).life = s.life := rfl
@[simp] theorem setWindowMain_devOpen : (setWindow .main w s).devOpen = s.devOpen := rfl
@[simp] theorem setWindowMain_winMain : (setWindow .main w s).winMain = w := rfl
@[simp] theorem setWindowMain_winWakeup : (setWindow .main w s).winWakeup = s.winWakeup := rfl
@[simp] theorem setWindowMain_host : (setWindow .main w s).host = s.host := rfl
@[simp] theorem setWindowMain_env : (setWindow .main w s).env = s.env := rfl
@[simp] theorem setWindowMain_draws : (setWindow .main w s).draws = s.draws := rfl
@[simp] theorem setWindowMain_responses : (setWindow .main w s).responses = s.responses := rfl
@[simp] theorem setWindowMain_access : (setWindow .main w s).access = s.access := rfl
@[simp] theorem setWindowMain_resource : (setWindow .main w s).resource = s.resource := rfl
end setWindowMain

section setWindowWakeup
variable (w : Window) (s : State)
@[simp] theorem setWindowWakeup_cfg : (setWindow .wakeup w s).cfg = s.cfg := rfl
@[simp] theorem setWindowWakeup_pads : (setWindow .wakeup w s).pads = s.pads := rfl
@[simp] theorem setWindowWakeup_life : (setWindow .wakeup w s).life = s.life := rfl
@[simp] theorem setWindowWakeup_devOpen : (setWindow .wakeup w s).devOpen = s.devOpen := rfl
@[simp] theorem setWindowWakeup_winMain : (setWindow .wakeup w s).winMain = s.winMain := rfl
@[simp] theorem setWindowWakeup_winWakeup : (setWindow .wakeup w s).winWakeup = w := rfl
@[simp] theorem setWindowWakeup_host : (setWindow .wakeup w s).host = s.host := rfl
@[simp] theorem setWindowWakeup_env : (setWindow .wakeup w s).env = s.env := rfl
@[simp] theorem setWindowWakeup_draws : (setWindow .wakeup w s).draws = s.draws := rfl
@[simp] theorem setWindowWakeup_responses : (setWindow .wakeup w s).responses = s.responses := rfl
@[simp] theorem setWindowWakeup_access : (setWindow .wakeup w s).access = s.access := rfl
@[simp] theorem setWindowWakeup_resource : (setWindow .wakeup w s).resource = s.resource := rfl
end setWindowWakeup

section setWindowAny
variable (d : Domain) (w : Window) (s : State)
@[simp] theorem setWindow_cfg : (setWindow d w s).cfg = s.cfg := by cases d <;> rfl
@[simp] theorem setWindow_pads : (setWindow d w s).pads = s.pads := by cases d <;> rfl
@[simp] theorem setWindow_life : (setWindow d w s).life = s.life := by cases d <;> rfl
@[simp] theorem setWindow_devOpen : (setWindow d w s).devOpen = s.devOpen := by cases d <;> rfl
@[simp] theorem setWindow_host : (setWindow d w s).host = s.host := by cases d <;> rfl
@[simp] theorem setWindow_env : (setWindow d w s).env = s.env := by cases d <;> rfl
@[simp] theorem setWindow_draws : (setWindow d w s).draws = s.draws := by cases d <;> rfl
@[simp] theorem setWindow_responses : (setWindow d w s).responses = s.responses := by cases d <;> rfl
@[simp] theorem setWindow_access : (setWindow d w s).access = s.access := by cases d <;> rfl
@[simp] theorem setWindow_resource : (setWindow d w s).resource = s.resource := by cases d <;> rfl
@[simp] theorem window_setWindow : window (setWindow d w s) d = w := by cases d <;> rfl
end setWindowAny

end Sys2Proof.Machine
end

