-- ==== Sys2Proof/Laws/Ops.lean ====
section
/-! SUPPORT. For each shared operation one lemma that says everything it can do; callers cite these and do not unfold. -/

namespace Sys2Proof.Machine

open Sys2Proof

/-! ### Addressing -/

theorem domainOf?_eq_some (dom : BitVec 8) (d : Domain) : domainOf? dom = some d ↔ dom.toNat = domainNumber d := by
  have hz : dom = 0x00#8 ↔ dom.toNat = 0 := BitVec.toNat_inj.symm
  have ho : dom = 0x01#8 ↔ dom.toNat = 1 := BitVec.toNat_inj.symm
  unfold domainOf?
  cases d <;> simp only [domainNumber] <;> split <;> try split
  all_goals simp_all

theorem domainOf?_eq_none (dom : BitVec 8) : domainOf? dom = none ↔ 2 ≤ dom.toNat := by
  have hm := domainOf?_eq_some dom .main
  have hw := domainOf?_eq_some dom .wakeup
  simp only [domainNumber] at hm hw
  cases h : domainOf? dom with
  | none => simp_all; omega
  | some d => cases d <;> simp_all

theorem pinOf?_eq_some (d : Domain) (pin : BitVec 16) (a : PinAddr) :
    pinOf? d pin = some a ↔ a.dom = d ∧ pin.toNat = a.idx.val := by
  obtain ⟨e, q⟩ := a
  unfold pinOf?
  split
  · next h =>
    simp only [Option.some.injEq, PinAddr.mk.injEq]
    constructor
    · rintro ⟨rfl, h2⟩
      exact ⟨rfl, by simpa [Fin.ext_iff] using h2⟩
    · rintro ⟨rfl, h2⟩
      exact ⟨rfl, by simpa [Fin.ext_iff] using h2⟩
  · next h =>
    constructor
    · intro h1
      cases h1
    · rintro ⟨rfl, h2⟩
      have := q.isLt
      dsimp only at h h2 this
      omega

/-- The checks read nothing of the state but `LIFE`: neither a pad register nor the chip. -/
theorem checks_congr (dom : BitVec 8) (pin : BitVec 16) {s t : State} (h : t.life = s.life) :
    checks dom pin t = checks dom pin s := by
  simp only [checks, h]

/-- How the checks of a pin command end, and under which conditions (30_encoding.md R93). -/
theorem checks_cases (dom : BitVec 8) (pin : BitVec 16) (s : State) :
    (2 ≤ dom.toNat ∧ checks dom pin s = .invalidDomain) ∨
    (dom.toNat < 2 ∧ s.life = .uninitialized ∧ checks dom pin s = .notInitialized) ∨
    (∃ d : Domain, dom.toNat = domainNumber d ∧ d.count ≤ pin.toNat ∧ s.life = .initialized ∧
      checks dom pin s = .outOfRange) ∨
    (∃ a, addresses dom pin a ∧ s.life = .initialized ∧ checks dom pin s = .passed a) := by
  unfold checks
  cases hd : domainOf? dom with
  | none => exact .inl ⟨(domainOf?_eq_none dom).1 hd, rfl⟩
  | some d =>
    have hdom := (domainOf?_eq_some dom d).1 hd
    have hlt : dom.toNat < 2 := by cases d <;> simp [domainNumber] at hdom <;> omega
    cases hl : s.life with
    | uninitialized => exact .inr (.inl ⟨hlt, rfl, rfl⟩)
    | initialized =>
      cases hp : pinOf? d pin with
      | none =>
        refine .inr (.inr (.inl ⟨d, hdom, ?_, rfl, by simp [hp]⟩))
        unfold pinOf? at hp
        split at hp
        · cases hp
        · omega
      | some a =>
        obtain ⟨rfl, h2⟩ := (pinOf?_eq_some d pin a).1 hp
        exact .inr (.inr (.inr ⟨a, ⟨hdom, h2⟩, rfl, by simp [hp]⟩))

/-! ### Register access -/

@[simp] theorem regRead_fst (a : PinAddr) (s : State) : (regRead a s).1 = readPad s.pads a := rfl

@[simp] theorem regRead_snd (a : PinAddr) (s : State) :
    (regRead a s).2 = { s with access := s.access ++ [.rd a (readPad s.pads a)] } := rfl

theorem regWrite_eq (a : PinAddr) (v : Word) (s : State) :
    regWrite a v s = { s with pads := writePad s.pads a v, access := s.access ++ [.wr a v] } := rfl

/-- One cycle: the register updated, one read and one write in the access trace, nothing else (20_memory.md R58). -/
theorem rmw_eq (a : PinAddr) (mask val : Word) (s : State) :
    rmw a mask val s = { s with
      pads := writePad s.pads a (fieldUpdate (readPad s.pads a) mask val)
      access := s.access ++ [.rd a (readPad s.pads a), .wr a (fieldUpdate (readPad s.pads a) mask val)] } := by
  simp [rmw, regRead, regWrite, emitAccess, setPad]

/-- Two cycles: the second reads what the first wrote (20_memory.md R68). -/
theorem rmwTwice_eq (m1 v1 m2 v2 : Word) (a : PinAddr) (s : State) :
    rmwTwice m1 v1 m2 v2 a s = { s with
      pads := writePad s.pads a (fieldUpdate (fieldUpdate (readPad s.pads a) m1 v1) m2 v2)
      access := s.access ++
        [.rd a (readPad s.pads a), .wr a (fieldUpdate (readPad s.pads a) m1 v1),
         .rd a (fieldUpdate (readPad s.pads a) m1 v1),
         .wr a (fieldUpdate (fieldUpdate (readPad s.pads a) m1 v1) m2 v2)] } := by
  simp [rmwTwice, rmw_eq, readPad_writePad_same, writePad_writePad]

/-! ### Resources -/

/-- `Teardown()`: one `Release` of what is held, and the reset control state (40_lifecycle.md R113). -/
theorem teardown_eq (s : State) :
    teardown s = { s with
      life := .uninitialized, devOpen := false, winMain := Window.none, winWakeup := Window.none
      resource := s.resource ++ [.released ⟨s.devOpen, s.winMain.mapped, s.winWakeup.mapped⟩] } := rfl

/-- The device opened: `DEV_OPEN` and its event (40_lifecycle.md R111). -/
theorem openDevice_eq (s : State) :
    openDevice s = { s with devOpen := true, resource := s.resource ++ [.opened] } := rfl

/-- The mapping handle entry a granted request stores (40_lifecycle.md R111). -/
theorem mapWindow_main_eq (base : Nat) (s : State) :
    mapWindow .main base s = { s with
      winMain := ⟨true, some base, some (regBaseOf s.cfg.chip .main base)⟩
      resource := s.resource ++ [.mapped .main] } := rfl

theorem mapWindow_wakeup_eq (base : Nat) (s : State) :
    mapWindow .wakeup base s = { s with
      winWakeup := ⟨true, some base, some (regBaseOf s.cfg.chip .wakeup base)⟩
      resource := s.resource ++ [.mapped .wakeup] } := rfl

/-- What INIT does with its sampled inputs, one case per row of the table of 40_lifecycle.md R112. -/
theorem acquire_cases (e : EnvInputs) (s : State) :
    (e.devOk = false ∧ acquire e s = { s with
      life := .uninitialized, devOpen := false, winMain := Window.none, winWakeup := Window.none
      resource := s.resource ++ [.released ⟨s.devOpen, s.winMain.mapped, s.winWakeup.mapped⟩]
      responses := s.responses ++ [⟨.raised .resourceError, none⟩] }) ∨
    (e.devOk = true ∧ e.mapOkMain = false ∧ acquire e s = { s with
      life := .uninitialized, devOpen := false, winMain := Window.none, winWakeup := Window.none
      resource := s.resource ++ [.opened, .released ⟨true, s.winMain.mapped, s.winWakeup.mapped⟩]
      responses := s.responses ++ [⟨.raised .resourceError, none⟩] }) ∨
    (e.devOk = true ∧ e.mapOkMain = true ∧ e.mapOkWakeup = false ∧ acquire e s = { s with
      life := .uninitialized, devOpen := false, winMain := Window.none, winWakeup := Window.none
      resource := s.resource ++ [.opened, .mapped .main, .released ⟨true, true, s.winWakeup.mapped⟩]
      responses := s.responses ++ [⟨.raised .resourceError, none⟩] }) ∨
    (e.devOk = true ∧ e.mapOkMain = true ∧ e.mapOkWakeup = true ∧ acquire e s = { s with
      life := .initialized
      devOpen := true
      winMain := ⟨true, some e.mapBaseMain, some (regBaseOf s.cfg.chip .main e.mapBaseMain)⟩
      winWakeup := ⟨true, some e.mapBaseWakeup, some (regBaseOf s.cfg.chip .wakeup e.mapBaseWakeup)⟩
      resource := s.resource ++ [.opened, .mapped .main, .mapped .wakeup]
      responses := s.responses ++ [⟨.ok, none⟩] }) := by
  cases h1 : e.devOk
  · exact .inl ⟨rfl, by simp [acquire, h1, raise, respond, teardown_eq]⟩
  · cases h2 : e.mapOkMain
    · exact .inr (.inl ⟨rfl, rfl, by
        simp [acquire, mapWindows, mapOk, h1, h2, raise, respond, teardown_eq, openDevice_eq]⟩)
    · cases h3 : e.mapOkWakeup
      · exact .inr (.inr (.inl ⟨rfl, rfl, rfl, by
          simp [acquire, mapWindows, mapOk, mapBase, h1, h2, h3, raise, respond, teardown_eq, openDevice_eq,
            mapWindow_main_eq]⟩))
      · exact .inr (.inr (.inr ⟨rfl, rfl, rfl, by
          simp [acquire, mapWindows, mapOk, mapBase, h1, h2, h3, respondOk, respond, setLife, openDevice_eq,
            mapWindow_main_eq, mapWindow_wakeup_eq]⟩))

/-- Sampling takes the next scripted answer, or a free draw, and touches nothing else; the sampled bases fit the ports. -/
theorem sampleEnv_cases (s : State) :
    (∃ e rest, s.env = e :: rest ∧ sampleEnv s = (atPorts s.cfg.chip e, { s with env := rest })) ∨
    (s.env = [] ∧ sampleEnv s = (atPorts s.cfg.chip (drawnEnv s.draws), { s with draws := s.draws + 1 })) := by
  unfold sampleEnv
  split
  · next e rest h => exact .inl ⟨e, rest, h, rfl⟩
  · next h => exact .inr ⟨h, rfl⟩

theorem toAddrWidth_lt (c : Chip) (n : Nat) : toAddrWidth c n < 2 ^ c.params.addrW :=
  Nat.mod_lt _ (Nat.two_pow_pos _)

theorem toAddrWidth_of_lt (c : Chip) (n : Nat) (h : n < 2 ^ c.params.addrW) : toAddrWidth c n = n :=
  Nat.mod_eq_of_lt h

/-! ### Commands -/

/-- What a pin command does: one of the answers of the failing checks, the soft answer, or its own accesses
(30_encoding.md R93). -/
theorem pinCommand_cases (dom : BitVec 8) (pin : BitVec 16) (soft : State → State)
    (body : PinAddr → State → State) (s : State) :
    (2 ≤ dom.toNat ∧ s.cfg.strictDomain = true ∧ pinCommand dom pin soft body s = raise .invalidAddress s) ∨
    (2 ≤ dom.toNat ∧ s.cfg.strictDomain = false ∧ pinCommand dom pin soft body s = soft s) ∨
    (dom.toNat < 2 ∧ s.life = .uninitialized ∧ pinCommand dom pin soft body s = raise .notInitialized s) ∨
    (∃ d : Domain, dom.toNat = domainNumber d ∧ d.count ≤ pin.toNat ∧ s.life = .initialized ∧
      pinCommand dom pin soft body s = raise .addressError s) ∨
    (∃ a, addresses dom pin a ∧ s.life = .initialized ∧ pinCommand dom pin soft body s = body a s) := by
  unfold pinCommand
  rcases checks_cases dom pin s with ⟨h, hc⟩ | ⟨h, hl, hc⟩ | ⟨d, h, hp, hl, hc⟩ | ⟨a, h, hl, hc⟩
  · cases hs : s.cfg.strictDomain
    · exact .inr (.inl ⟨h, rfl, by simp [hc]⟩)
    · exact .inl ⟨h, rfl, by simp [hc]⟩
  · exact .inr (.inr (.inl ⟨h, hl, by simp [hc]⟩))
  · exact .inr (.inr (.inr (.inl ⟨d, h, hp, hl, by simp [hc]⟩)))
  · exact .inr (.inr (.inr (.inr ⟨a, h, hl, by simp [hc]⟩)))

/-- What a step does: idle, answer an illegal word, or run the decoded command. -/
theorem step_cases (s : State) :
    (s.host = [] ∧ step s = .next s) ∨
    (∃ c rest e, s.host = c :: rest ∧ decode c = .error e ∧ step s = .next (illegalCommand { s with host := rest })) ∨
    (∃ c rest i, s.host = c :: rest ∧ decode c = .ok i ∧ step s = exec i { s with host := rest }) := by
  unfold step nextCommand
  split
  · next h =>
    split at h
    · cases h
    · next hh => exact .inl ⟨hh, rfl⟩
  · next c t h =>
    split at h
    · next c' rest hh =>
      simp only [Option.some.injEq, Prod.mk.injEq] at h
      obtain ⟨rfl, rfl⟩ := h
      cases hd : decode c' with
      | ok i => exact .inr (.inr ⟨c', rest, i, hh, hd, rfl⟩)
      | error e => exact .inr (.inl ⟨c', rest, e, hh, hd, rfl⟩)
    · cases h

end Sys2Proof.Machine
end

