-- ==== Sys2Proof/Laws/Exec.lean ====
section
/-! SUPPORT. What `exec` can do, said once: INIT, and the eleven pin commands. -/

namespace Sys2Proof.Machine

open Sys2Proof

/-- INIT: the fault in Initialized, else `acquire` on the sampled inputs (40_lifecycle.md R111). -/
theorem exec_init_cases (s : State) :
    (s.life = .initialized ∧ exec .init s = .next (raise .alreadyInitialized s)) ∨
    (s.life = .uninitialized ∧ ∃ e rest, s.env = e :: rest ∧
      exec .init s = .next (acquire (atPorts s.cfg.chip e) { s with env := rest })) ∨
    (s.life = .uninitialized ∧ s.env = [] ∧
      exec .init s = .next (acquire (atPorts s.cfg.chip (drawnEnv s.draws)) { s with draws := s.draws + 1 })) := by
  cases h : s.life
  · rcases sampleEnv_cases s with ⟨e, rest, he, hs⟩ | ⟨he, hs⟩
    · exact .inr (.inl ⟨rfl, e, rest, he, by simp [exec, execInit, h, hs]⟩)
    · exact .inr (.inr ⟨rfl, he, by simp [exec, execInit, h, hs]⟩)
  · exact .inl ⟨rfl, by simp [exec, execInit, h]⟩

/-- What the accesses and the response of a pin command that passed its checks may do to the state: the addressed register
only, events on it only, one OK response with data from GET_RAW and DUMP only. -/
structure PinBody (i : Instr) (dom : BitVec 8) (pin : BitVec 16) (a : PinAddr) (s t : State) : Prop where
  control : sameControl s t
  inputs : sameInputs s t
  pads : ∃ w, t.pads = writePad s.pads a w
  access : ∃ evs, t.access = s.access ++ evs ∧ evs.length = accessCount i ∧ ∀ e ∈ evs, eventAddr e = a
  response : ∃ d, t.responses = s.responses ++ [⟨.ok, d⟩] ∧
    (d.isSome = true → i = .getRaw dom pin ∨ i = .dump dom pin)
  reads : i = .getRaw dom pin ∨ i = .dump dom pin → t.pads = s.pads

/-- Every pin command is `pinCommand` with its soft answer and a body of that kind. -/
theorem exec_pin_form (i : Instr) (dom : BitVec 8) (pin : BitVec 16) (h : i.pinOperands = some (dom, pin)) :
    ∃ (soft : Option Word) (body : PinAddr → State → State),
      (∀ s, exec i s = .next (pinCommand dom pin (respond ⟨.ok, soft⟩) body s)) ∧
      ((soft = none ∧ i ≠ .getRaw dom pin) ∨ (soft = some sentinel ∧ i = .getRaw dom pin)) ∧
      ∀ a s, PinBody i dom pin a s (body a s) := by
  cases i <;> simp only [Instr.pinOperands, Option.some.injEq, Prod.mk.injEq, reduceCtorEq] at h
  all_goals obtain ⟨rfl, rfl⟩ := h
  all_goals refine ⟨_, _, fun s => rfl, ?_, fun a s => ?_⟩
  all_goals try (first | exact .inl ⟨rfl, by simp⟩ | exact .inr ⟨rfl, rfl⟩)
  all_goals simp only [rmw_eq, rmwTwice_eq, regWrite_eq, regRead_fst, regRead_snd, respondData, respondOk, respond]
  all_goals refine ⟨⟨rfl, rfl, rfl, rfl, rfl⟩, ⟨rfl, rfl, rfl, rfl⟩, ?_, ⟨_, rfl, rfl, ?_⟩, ⟨_, rfl, ?_⟩, ?_⟩
  all_goals first | exact ⟨_, rfl⟩ | exact ⟨_, (writePad_readPad _ _).symm⟩ | simp [eventAddr]

end Sys2Proof.Machine
end

