-- ==== Sys2Proof/Laws/PerInstr.lean ====
section
/-! SUPPORT. Per-instruction families: for each a statement over `Instr` and one lemma per constructor. -/

namespace Sys2Proof.Laws.MatchesRow

open Sys2Proof

/-- The encoded command word satisfies `w & mask = match` of the instruction's row of the opcode map (30_encoding.md R87). -/
def Statement (i : Instr) : Prop := ∃ r ∈ opcodeRows, r.op = opOf i ∧ r.accepts (encode i).cmd = true

theorem init : Statement .init := ⟨⟨.init, 0xFFFFFFFF#32, 0x10000000#32⟩, by decide, rfl, by decide⟩

theorem deinit : Statement .deinit := ⟨⟨.deinit, 0xFFFFFFFF#32, 0x20000000#32⟩, by decide, rfl, by decide⟩

theorem selectFunction (dom : BitVec 8) (pin : BitVec 16) (fn : BitVec 4) :
    Statement (.selectFunction dom pin fn) :=
  ⟨⟨.selectFunction, 0xF0000000#32, 0x30000000#32⟩, by decide, rfl, accepts_op4 _ 0x3#4 fn dom pin _ (by decide)⟩

theorem selectInput (dom : BitVec 8) (pin : BitVec 16) : Statement (.selectInput dom pin) :=
  ⟨⟨.selectInput, 0xFF000000#32, 0x40000000#32⟩, by decide, rfl, accepts_op8 _ 0x4#4 dom pin _ (by decide)⟩

theorem selectOutput (dom : BitVec 8) (pin : BitVec 16) : Statement (.selectOutput dom pin) :=
  ⟨⟨.selectOutput, 0xFF000000#32, 0x50000000#32⟩, by decide, rfl, accepts_op8 _ 0x5#4 dom pin _ (by decide)⟩

theorem selectInout (dom : BitVec 8) (pin : BitVec 16) : Statement (.selectInout dom pin) :=
  ⟨⟨.selectInout, 0xFF000000#32, 0x60000000#32⟩, by decide, rfl, accepts_op8 _ 0x6#4 dom pin _ (by decide)⟩

theorem selectHiz (dom : BitVec 8) (pin : BitVec 16) : Statement (.selectHiz dom pin) :=
  ⟨⟨.selectHiz, 0xFF000000#32, 0x70000000#32⟩, by decide, rfl, accepts_op8 _ 0x7#4 dom pin _ (by decide)⟩

theorem selectPullUp (dom : BitVec 8) (pin : BitVec 16) : Statement (.selectPullUp dom pin) :=
  ⟨⟨.selectPullUp, 0xFF000000#32, 0x80000000#32⟩, by decide, rfl, accepts_op8 _ 0x8#4 dom pin _ (by decide)⟩

theorem selectPullDown (dom : BitVec 8) (pin : BitVec 16) : Statement (.selectPullDown dom pin) :=
  ⟨⟨.selectPullDown, 0xFF000000#32, 0x90000000#32⟩, by decide, rfl, accepts_op8 _ 0x9#4 dom pin _ (by decide)⟩

theorem selectPullDisable (dom : BitVec 8) (pin : BitVec 16) : Statement (.selectPullDisable dom pin) :=
  ⟨⟨.selectPullDisable, 0xFF000000#32, 0xA0000000#32⟩, by decide, rfl, accepts_op8 _ 0xA#4 dom pin _ (by decide)⟩

theorem getRaw (dom : BitVec 8) (pin : BitVec 16) : Statement (.getRaw dom pin) :=
  ⟨⟨.getRaw, 0xFF000000#32, 0xB0000000#32⟩, by decide, rfl, accepts_op8 _ 0xB#4 dom pin _ (by decide)⟩

theorem setRaw (dom : BitVec 8) (pin : BitVec 16) (value : Word) : Statement (.setRaw dom pin value) :=
  ⟨⟨.setRaw, 0xFF000000#32, 0xC0000000#32⟩, by decide, rfl, accepts_op8 _ 0xC#4 dom pin _ (by decide)⟩

theorem dump (dom : BitVec 8) (pin : BitVec 16) : Statement (.dump dom pin) :=
  ⟨⟨.dump, 0xFF000000#32, 0xD0000000#32⟩, by decide, rfl, accepts_op8 _ 0xD#4 dom pin _ (by decide)⟩

end Sys2Proof.Laws.MatchesRow
end

