-- ==== Sys2Proof/Tests/Slice0.lean ====
section
/-! SUPPORT. The model's own tests: ill-formed words, decoding of written-out words, single steps with the numbers of
95_test_vectors.md, and for every statement with hypotheses a witness that meets them. -/

namespace Sys2Proof.Tests

open Sys2Proof Sys2Proof.Machine

/-! ### Helpers -/

/-- The parameter values of vector V8 (examples of the spec, no chip's). -/
def v8 : ChipParams := { physMain := 0x1C000, physWakeup := 0x302C040, pageSize := 0x1000, addrW := 32 }

/-- The chip of vector V8. -/
def v8Chip : Chip := ⟨v8, by decide⟩

/-- Every register at `w`. -/
def padsAll (w : Word) : Pads := { main := Vector.replicate 195 w, wakeup := Vector.replicate 70 w }

/-- Uninitialized, every register at `w`. -/
def idle (w : Word) : State :=
  { State.reset with cfg := { chip := v8Chip, strictDomain := false }, pads := padsAll w }

/-- Initialized with the mapped bases of V8, every register at `w`. -/
def live (w : Word) : State :=
  { idle w with
    life := .initialized
    devOpen := true
    winMain := ⟨true, some 0x7F000000, some 0x7F000000⟩
    winWakeup := ⟨true, some 0x7F100000, some 0x7F100040⟩
    resource := [.opened, .mapped .main, .mapped .wakeup] }

/-- `s` in strict mode. -/
def strict (s : State) : State := { s with cfg := { s.cfg with strictDomain := true } }

/-- One command presented. -/
def present (cmd wd : Word) (s : State) : State := { s with host := [⟨cmd, wd⟩] }

/-- One answer of the environment, with the mapped bases of V8. -/
def answers (dev main wakeup : Bool) (s : State) : State :=
  { s with env := [⟨dev, main, wakeup, 0x7F000000, 0x7F100000⟩] }

/-- One step of one command; a stop would give `none`. -/
def one (cmd wd : Word) (s : State) : Option State :=
  match step (present cmd wd s) with
  | .next t => some t
  | .fault _ => none
  | .refused _ => none

/-- Register word, access trace and responses after one command. -/
def seen (a : PinAddr) (cmd wd : Word) (s : State) : Option (Word × List AccessEvent × List Response) :=
  (one cmd wd s).map fun t => (readPad t.pads a, t.access, t.responses)

/-- Lifecycle state, resource trace and responses after one command. -/
def lifeSeen (cmd : Word) (s : State) : Option (Life × List ResourceEvent × List Response) :=
  (one cmd 0#32 s).map fun t => (t.life, t.resource, t.responses)

/-- A decoded instruction, `none` for a refusal. -/
def decoded (cmd wd : Word) : Option Instr :=
  match decode ⟨cmd, wd⟩ with
  | .ok i => some i
  | .error _ => none

/-- The name of a refusal, `none` for a decoded instruction. -/
def refusedAs (cmd : Word) : Option IllegalWord :=
  match decode ⟨cmd, 0#32⟩ with
  | .ok _ => none
  | .error e => some e

/-- MAIN[10]. -/
def m10 : PinAddr := ⟨.main, ⟨10, by decide⟩⟩
/-- MAIN[194], the last of Main. -/
def m194 : PinAddr := ⟨.main, ⟨194, by decide⟩⟩
/-- WKUP[0]. -/
def w0 : PinAddr := ⟨.wakeup, ⟨0, by decide⟩⟩
/-- WKUP[69], the last of Wakeup. -/
def w69 : PinAddr := ⟨.wakeup, ⟨69, by decide⟩⟩

/-! ### Ill-formed words, one per check (30_encoding.md R94; V7 rows 1 to 6) -/

theorem test_illformed_reserved_opcode :
    (⟨0xF123ABCD#32, 0#32⟩ : Command).wellFormed = false ∧ (⟨0x00000000#32, 0#32⟩ : Command).opAssigned = false ∧
      refusedAs 0xE0000000#32 = some (.reservedOpcode 0xE#4) := by decide

theorem test_illformed_function_field :
    (⟨0x4100000A#32, 0#32⟩ : Command).wellFormed = false ∧
      (⟨0xBF000000#32, 0#32⟩ : Command).functionFieldLegal = false ∧
      refusedAs 0x4100000A#32 = some (.functionFieldNotZero 0x4#4 0x1#4) := by decide

theorem test_illformed_lifecycle_bits :
    (⟨0x10000001#32, 0#32⟩ : Command).wellFormed = false ∧
      (⟨0x20010000#32, 0#32⟩ : Command).lifecycleBitsLegal = false ∧
      refusedAs 0x10000001#32 = some (.operandBitsNotZero 0x1#4 0x0000001#28) := by decide

/-- 00_scope.md R11 (e), (d), (a): the refused configuration of V8, overlapping windows, and a page of no power of two. -/
theorem test_illformed_configurations :
    Chip.ofParams? { v8 with physMain := 0x1CF00 } = none ∧ Chip.ofParams? { v8 with physWakeup := 0x1C308 } = none ∧
      Chip.ofParams? { v8 with pageSize := 0xC00 } = none ∧ (Chip.ofParams? v8).isSome = true := by decide

/-! ### Decoding of words written out from 30_encoding.md R87 -/

theorem test_decode_init : decoded 0x10000000#32 0#32 = some .init := by decide
theorem test_decode_deinit : decoded 0x20000000#32 0#32 = some .deinit := by decide
theorem test_decode_select_function :
    decoded 0b0011_0111_00000000_0000000011000010#32 0#32 = some (.selectFunction 0#8 194#16 7#4) := by decide
theorem test_decode_select_input :
    decoded 0b0100_0000_00000000_0000000000001010#32 0#32 = some (.selectInput 0#8 10#16) := by decide
theorem test_decode_select_output :
    decoded 0b0101_0000_00000010_0000000000000000#32 0#32 = some (.selectOutput 2#8 0#16) := by decide
theorem test_decode_select_inout :
    decoded 0b0110_0000_00000001_0000000000000000#32 0#32 = some (.selectInout 1#8 0#16) := by decide
theorem test_decode_select_hiz :
    decoded 0b0111_0000_00001001_0010011100001111#32 0#32 = some (.selectHiz 9#8 9999#16) := by decide
theorem test_decode_select_pull_up :
    decoded 0b1000_0000_00000000_0000000000001010#32 0#32 = some (.selectPullUp 0#8 10#16) := by decide
theorem test_decode_select_pull_down :
    decoded 0b1001_0000_00000001_0000000001000101#32 0#32 = some (.selectPullDown 1#8 69#16) := by decide
theorem test_decode_select_pull_disable :
    decoded 0b1010_0000_00000001_0000000000000101#32 0#32 = some (.selectPullDisable 1#8 5#16) := by decide
theorem test_decode_get_raw :
    decoded 0b1011_0000_11111111_1111111111111111#32 0#32 = some (.getRaw 255#8 65535#16) := by decide
theorem test_decode_set_raw :
    decoded 0b1100_0000_00000001_0000000000000000#32 0xDEADBEEF#32 = some (.setRaw 1#8 0#16 0xDEADBEEF#32) := by decide
theorem test_decode_dump :
    decoded 0b1101_0000_00000000_0000000011000011#32 0#32 = some (.dump 0#8 195#16) := by decide

/-! ### Single steps, with the words and traces of 95_test_vectors.md -/

/-- V1 row 4 and the example of 40_lifecycle.md R111. -/
theorem test_init_granted :
    lifeSeen 0x10000000#32 (answers true true true (idle 0#32)) =
      some (.initialized, [.opened, .mapped .main, .mapped .wakeup], [⟨.ok, none⟩]) ∧
    (one 0x10000000#32 0#32 (answers true true true (idle 0#32))).map (fun t => (t.winMain.regBase, t.winWakeup.regBase)) =
      some (some 0x7F000000, some 0x7F100040) := by decide

/-- V1 rows 1 to 3 and 6. -/
theorem test_init_denied :
    lifeSeen 0x10000000#32 (answers true true false (idle 0#32)) =
      some (.uninitialized, [.opened, .mapped .main, .released ⟨true, true, false⟩], [⟨.raised .resourceError, none⟩]) ∧
    lifeSeen 0x10000000#32 (answers false true true (idle 0#32)) =
      some (.uninitialized, [.released ⟨false, false, false⟩], [⟨.raised .resourceError, none⟩]) ∧
    lifeSeen 0x10000000#32 (live 0#32) =
      some (.initialized, [.opened, .mapped .main, .mapped .wakeup], [⟨.raised .alreadyInitialized, none⟩]) := by decide

/-- V1 rows 5 and 7. -/
theorem test_deinit :
    lifeSeen 0x20000000#32 (live 0#32) =
      some (.uninitialized, [.opened, .mapped .main, .mapped .wakeup, .released ⟨true, true, true⟩], [⟨.ok, none⟩]) ∧
    lifeSeen 0x20000000#32 (idle 0#32) = some (.uninitialized, [.released ⟨false, false, false⟩], [⟨.ok, none⟩]) := by
  decide

/-- 41_function_select.md R125, the worked example. -/
theorem test_select_function :
    seen m194 0x370000C2#32 0#32 (live 0x00214001#32) =
      some (0x00214007#32, [.rd m194 0x00214001#32, .wr m194 0x00214007#32], [⟨.ok, none⟩]) := by decide

/-- 42_direction.md R131, the worked example. -/
theorem test_select_input :
    seen m10 0x4000000A#32 0#32 (live 0#32) =
      some (0x00240000#32, [.rd m10 0#32, .wr m10 0x00040000#32, .rd m10 0x00040000#32, .wr m10 0x00240000#32],
        [⟨.ok, none⟩]) := by decide

/-- 42_direction.md R132, the worked example. -/
theorem test_select_output :
    seen m10 0x5000000A#32 0#32 (live 0xFFFFFFFF#32) =
      some (0xFFDBFFFF#32, [.rd m10 0xFFFFFFFF#32, .wr m10 0xFFFBFFFF#32, .rd m10 0xFFFBFFFF#32, .wr m10 0xFFDBFFFF#32],
        [⟨.ok, none⟩]) := by decide

/-- 42_direction.md R133, the worked example. -/
theorem test_select_inout :
    seen w0 0x60010000#32 0#32 (live 0x00214001#32) =
      some (0x00054001#32, [.rd w0 0x00214001#32, .wr w0 0x00254001#32, .rd w0 0x00254001#32, .wr w0 0x00054001#32],
        [⟨.ok, none⟩]) := by decide

/-- 42_direction.md R134, the worked example. -/
theorem test_select_hiz :
    seen m10 0x7000000A#32 0#32 (live 0x00050007#32) =
      some (0x00210007#32, [.rd m10 0x00050007#32, .wr m10 0x00010007#32, .rd m10 0x00010007#32, .wr m10 0x00210007#32],
        [⟨.ok, none⟩]) := by decide

/-- 43_pull.md R141, the worked example. -/
theorem test_select_pull_up :
    seen m10 0x8000000A#32 0#32 (live 0x00050007#32) =
      some (0x00060007#32, [.rd m10 0x00050007#32, .wr m10 0x00040007#32, .rd m10 0x00040007#32, .wr m10 0x00060007#32],
        [⟨.ok, none⟩]) := by decide

/-- 43_pull.md R142, the worked example. -/
theorem test_select_pull_down :
    seen w69 0x90010045#32 0#32 (live 0xFFFFFFFF#32) =
      some (0xFFFCFFFF#32, [.rd w69 0xFFFFFFFF#32, .wr w69 0xFFFEFFFF#32, .rd w69 0xFFFEFFFF#32, .wr w69 0xFFFCFFFF#32],
        [⟨.ok, none⟩]) := by decide

/-- 43_pull.md R143, the worked example. -/
theorem test_select_pull_disable :
    seen m10 0xA000000A#32 0#32 (live 0x00020007#32) =
      some (0x00030007#32, [.rd m10 0x00020007#32, .wr m10 0x00030007#32], [⟨.ok, none⟩]) := by decide

/-- V5 row 4, and rows 3 and 5 past the last register of each window. -/
theorem test_get_raw :
    seen w69 0xB0010045#32 0#32 (live 0xFFF8FFFF#32) =
      some (0xFFF8FFFF#32, [.rd w69 0xFFF8FFFF#32], [⟨.ok, some 0xFFF8FFFF#32⟩]) ∧
    (one 0xB00000C3#32 0#32 (live 0#32)).map (·.responses) = some [⟨.raised .addressError, none⟩] ∧
    (one 0xB0010046#32 0#32 (live 0#32)).map (·.responses) = some [⟨.raised .addressError, none⟩] := by decide

/-- V7 rows 12 and 14, and P6 rows 1 and 3: the order of the checks in either mode. -/
theorem test_get_raw_checks :
    (one 0xB000270F#32 0#32 (idle 0#32)).map (·.responses) = some [⟨.raised .notInitialized, none⟩] ∧
    (one 0xB007270F#32 0#32 (idle 0#32)).map (·.responses) = some [⟨.ok, some 0xFFFFFFFF#32⟩] ∧
    (one 0xB0020000#32 0#32 (strict (idle 0#32))).map (·.responses) = some [⟨.raised .invalidAddress, none⟩] ∧
    (one 0xB0020000#32 0#32 (strict (live 0#32))).map (·.responses) = some [⟨.raised .invalidAddress, none⟩] := by decide

/-- V5 rows 9 and 12. -/
theorem test_set_raw :
    seen w0 0xC0010000#32 0xDEADBEEF#32 (live 0x12345678#32) =
      some (0xDEADBEEF#32, [.wr w0 0xDEADBEEF#32], [⟨.ok, none⟩]) ∧
    seen w0 0xC0020000#32 0x00000001#32 (live 0x12345678#32) = some (0x12345678#32, [], [⟨.ok, none⟩]) := by decide

/-- 45_dump.md R160, the worked example, and V6 row 8; `DUMP 2, 0`. -/
theorem test_dump :
    seen m10 0xD000000A#32 0#32 (live 0x00020007#32) =
      some (0x00020007#32, [.rd m10 0x00020007#32], [⟨.ok, some 0x00000057#32⟩]) ∧
    seen m10 0xD000000A#32 0#32 (live 0x0023000F#32) =
      some (0x0023000F#32, [.rd m10 0x0023000F#32], [⟨.ok, some 0x0000003F#32⟩]) ∧
    seen m10 0xD0020000#32 0#32 (live 0#32) = some (0#32, [], [⟨.ok, none⟩]) := by decide

/-- V7 rows 6 and 9: an illegal word in either lifecycle state, and its legal neighbour with an invalid domain. -/
theorem test_illegal_command :
    (one 0x41020000#32 0#32 (idle 0#32)).map (·.responses) = some [⟨.raised .illegalCommand, none⟩] ∧
    (one 0x41020000#32 0#32 (live 0#32)).map (·.responses) = some [⟨.raised .illegalCommand, none⟩] ∧
    (one 0x40020000#32 0#32 (idle 0#32)).map (·.responses) = some [⟨.ok, none⟩] := by decide

/-- V8: physical and mapped addresses of the last register of each window. -/
theorem test_addresses :
    physAddr v8Chip m194 = 0x1C308 ∧ mappedAddr 0x7F000000 m194 = 0x7F000308 ∧ physAddr v8Chip w69 = 0x302C154 ∧
      mappedAddr 0x7F100040 w69 = 0x7F100154 ∧ mapTarget v8Chip .wakeup = 0x302C000 ∧
      pageOffset v8Chip .wakeup = 0x40 ∧ mapSpan v8Chip .wakeup = 0x1000 ∧
      translateMapped v8Chip .wakeup 0x7F100000 0x7F100154 = some 0x302C154 := by decide

/-- The interface functions: a table word decodes and is what the very next step runs. -/
theorem test_with_fetch_word :
    decodeTableWord 32 0x370000C2 = some (.selectFunction 0#8 194#16 7#4) ∧
    ((idle 0#32).withFetchWord 32 0x20000000).host = [⟨0x20000000#32, 0#32⟩] := by decide

/-! ### Witnesses: for every statement with hypotheses, a case that meets them -/

/-- A valid address in an Initialized state, at both ends of both windows: the hypotheses of SelectFunctionMeaning,
SelectFunctionField, SelectInputMeaning to SelectHizMeaning, DirectionProperties, SelectPullUpMeaning to
SelectPullDisableMeaning, PullProperties, GetRawMeaning, SetRawMeaning, SetThenGetReturnsWord and DumpMeaning, and of the
clauses of CheckOrder, PinCommandFrame and AccessCounts on passed checks. -/
theorem witness_valid_address :
    (addresses 0#8 0#16 ⟨.main, ⟨0, by decide⟩⟩ ∧ addresses 0#8 194#16 m194 ∧ addresses 1#8 0#16 w0 ∧ addresses 1#8 69#16 w69) ∧
      (live 0#32).life = .initialized ∧ checks 0#8 194#16 (live 0#32) = .passed m194 ∧
      checks 1#8 69#16 (live 0#32) = .passed w69 :=
  ⟨by refine ⟨⟨rfl, rfl⟩, ⟨rfl, rfl⟩, ⟨rfl, rfl⟩, ⟨rfl, rfl⟩⟩, rfl, by decide, by decide⟩

/-- The failing clauses of `answersFailedChecks`, CheckOrder, InvalidDomainPolicy, NotInitializedRejects, PinOutOfRange,
PinCommandFrame and AccessCounts (and the pin command of ParametersFixed), each at the boundary of its range: domains 2 and 255, domain 1 uninitialized, the first
index past each window. -/
theorem witness_failed_checks :
    2 ≤ (2#8).toNat ∧ 2 ≤ (255#8).toNat ∧ (1#8).toNat < 2 ∧ (idle 0#32).life = .uninitialized ∧
      (idle 0#32).cfg.strictDomain = false ∧ (strict (idle 0#32)).cfg.strictDomain = true ∧
      (live 0#32).life = .initialized ∧ (0#8).toNat = domainNumber .main ∧ Domain.count .main ≤ (195#16).toNat ∧
      (1#8).toNat = domainNumber .wakeup ∧ Domain.count .wakeup ≤ (70#16).toNat ∧
      checks 2#8 0#16 (live 0#32) = .invalidDomain ∧ checks 1#8 70#16 (idle 0#32) = .notInitialized ∧
      checks 0#8 195#16 (live 0#32) = .outOfRange ∧ checks 1#8 70#16 (live 0#32) = .outOfRange ∧
      Instr.pinOperands (.getRaw 2#8 0#16) = some (2#8, 0#16) ∧ (.setRaw 2#8 0#16 1#32 : Instr) ≠ .getRaw 2#8 0#16 := by
  decide

/-- OpcodeMap: a word of each row, and a word of none. -/
theorem witness_OpcodeMap :
    (0x10000000#32 &&& 0xFFFFFFFF#32 = 0x10000000#32 ∧ 0x20000000#32 &&& 0xFFFFFFFF#32 = 0x20000000#32 ∧
      0x3FFFFFFF#32 &&& 0xF0000000#32 = 0x30000000#32 ∧ 0x40FFFFFF#32 &&& 0xFF000000#32 = 0x40000000#32 ∧
      0x50000000#32 &&& 0xFF000000#32 = 0x50000000#32 ∧ 0x60010000#32 &&& 0xFF000000#32 = 0x60000000#32 ∧
      0x7009270F#32 &&& 0xFF000000#32 = 0x70000000#32 ∧ 0x8000000A#32 &&& 0xFF000000#32 = 0x80000000#32 ∧
      0x90010045#32 &&& 0xFF000000#32 = 0x90000000#32 ∧ 0xA0010005#32 &&& 0xFF000000#32 = 0xA0000000#32 ∧
      0xB0FFFFFF#32 &&& 0xFF000000#32 = 0xB0000000#32 ∧ 0xC0010000#32 &&& 0xFF000000#32 = 0xC0000000#32 ∧
      0xD00000C3#32 &&& 0xFF000000#32 = 0xD0000000#32) ∧
    ∀ r ∈ opcodeRows, 0x4100000A#32 &&& r.mask ≠ r.pattern := by decide

/-- IllegalCommandWords: an illegal command presented in a state. -/
theorem witness_IllegalCommandWords :
    (present 0x10000001#32 0#32 (live 0#32)).host = ⟨0x10000001#32, 0#32⟩ :: [] ∧
      decode ⟨0x10000001#32, 0#32⟩ = .error (.operandBitsNotZero 0x1#4 0x0000001#28) := ⟨rfl, rfl⟩

/-- The clause `rejectsFunctionField` of the SELECT, GET_RAW, SET_RAW and DUMP statements: a function code that is not zero. -/
theorem witness_rejectsFunctionField : (0xF#4 : BitVec 4) ≠ 0#4 := by decide

/-- EncodeDecodeRoundTrip and WriteDataIgnored: a decoding word of SET_RAW, and one of another command. -/
theorem witness_round_trip :
    decode ⟨0xC0010000#32, 0xDEADBEEF#32⟩ = .ok (.setRaw 1#8 0#16 0xDEADBEEF#32) ∧ 0xC0010000#32 >>> 28 = 0xC#32 ∧
      0xD0010000#32 >>> 28 ≠ 0xC#32 := ⟨rfl, by decide, by decide⟩

/-- StepRunsDecodedCommand and OneResponsePerCommand: a command presented that decodes; an answer with data. -/
theorem witness_command_presented :
    (present 0xB0010045#32 0#32 (live 7#32)).host = ⟨0xB0010045#32, 0#32⟩ :: [] ∧
      decode ⟨0xB0010045#32, 0#32⟩ = .ok (.getRaw 1#8 69#16) ∧ rvalid ⟨.ok, some 7#32⟩ = 1#1 := ⟨rfl, rfl, rfl⟩

/-- NothingPresentedNothingExecuted: nothing is presented at reset. -/
theorem witness_NothingPresentedNothingExecuted : State.reset.host = [] := rfl

/-- ParametersFixed, StatusCodes, LifecycleTransitions, BoundaryInvariantKept and ResourceAccount: a state of the invariant in
each lifecycle state whose step is a next state and changes the lifecycle state. -/
theorem witness_steps :
    boundaryInv (present 0x20000000#32 0#32 (live 0#32)) ∧ (live 0#32).cfg.strictDomain = false ∧
      (one 0x20000000#32 0#32 (live 0#32)).map (·.life) = some .uninitialized ∧
      boundaryInv (present 0x10000000#32 0#32 (answers true true true (idle 0#32))) ∧
      (one 0x10000000#32 0#32 (answers true true true (idle 0#32))).map (·.life) = some .initialized :=
  ⟨⟨.inr ⟨rfl, rfl, ⟨rfl, 0x7F000000, by decide, rfl, rfl⟩, ⟨rfl, 0x7F100000, by decide, rfl, rfl⟩⟩, rfl⟩, rfl,
    by decide, ⟨.inl ⟨rfl, rfl, rfl, rfl⟩, rfl⟩, by decide⟩

/-- InitMeaning and InitWithWrappingBase: the reset control state with a scripted answer, the bases at both ends of the
clauses' ranges on the chip of V8 (a sum one below, and at, the top of the address space). -/
theorem witness_init :
    controlReset (answers true true true (idle 0#32)) ∧
      (answers true true true (idle 0#32)).env = ⟨true, true, true, 0x7F000000, 0x7F100000⟩ :: [] ∧
      (live 0#32).life = .initialized ∧ 0xFFFFFFBF + pageOffset v8Chip .wakeup < 2 ^ v8.addrW ∧
      0x7F000000 + pageOffset v8Chip .main < 2 ^ v8.addrW ∧ 0xFFFFFFC0 < 2 ^ v8.addrW ∧
      ¬ 0xFFFFFFC0 + pageOffset v8Chip .wakeup < 2 ^ v8.addrW :=
  ⟨⟨rfl, rfl, rfl, rfl⟩, rfl, rfl, by decide, by decide, by decide, by decide⟩

/-- InitDrawsAfresh: the reset state has no scripted answer. -/
theorem witness_InitDrawsAfresh : State.reset.life = .uninitialized ∧ State.reset.env = [] := ⟨rfl, rfl⟩

/-- FailedInitCanBeRetried: a denied answer followed by a granted one. -/
theorem witness_FailedInitCanBeRetried :
    controlReset { idle 0#32 with env := [⟨true, true, false, 0, 0⟩, ⟨true, true, true, 0, 0x1000⟩] } ∧
      (true && true && false) = false := ⟨⟨rfl, rfl, rfl, rfl⟩, rfl⟩

/-- SelectIdempotent, SelectKindsCommute: a SELECT operation of each kind. -/
theorem witness_select :
    isSelect (.selectFunction 0#8 194#16 7#4) = true ∧
      Instr.selectHiz 1#8 69#16 ∈ [Instr.selectInput 1#8 69#16, .selectOutput 1#8 69#16, .selectInout 1#8 69#16,
        .selectHiz 1#8 69#16] ∧
      Instr.selectFunction 1#8 69#16 5#4 ∈ [Instr.selectPullUp 1#8 69#16, .selectPullDown 1#8 69#16,
        .selectPullDisable 1#8 69#16, .selectFunction 1#8 69#16 5#4] ∧
      Instr.selectPullUp 1#8 69#16 ∈ [Instr.selectPullUp 1#8 69#16, .selectPullDown 1#8 69#16,
        .selectPullDisable 1#8 69#16] := by decide

/-- MappingReachesEveryRegister: the chip the instance really sits on meets the premise of 70_reset_and_hazards.md R207. -/
theorem witness_BasesCorrect : Config.trueChip.BasesCorrect := fun _ => rfl

/-- SentinelAmbiguous: a register of all ones, and an invalid domain in the default mode. -/
theorem witness_SentinelAmbiguous :
    addresses 1#8 5#16 ⟨.wakeup, ⟨5, by decide⟩⟩ ∧ (live 0xFFFFFFFF#32).life = .initialized ∧
      (live 0xFFFFFFFF#32).cfg.strictDomain = false ∧ 2 ≤ (2#8).toNat ∧
      readPad (live 0xFFFFFFFF#32).pads ⟨.wakeup, ⟨5, by decide⟩⟩ = 0xFFFFFFFF#32 :=
  ⟨⟨rfl, rfl⟩, rfl, rfl, by decide, by decide⟩

/-- FieldDecoding: a word for each clause, from V6. -/
theorem witness_FieldDecoding :
    0xFFFFFFFF#32 &&& 0x00240000#32 = 0x00240000#32 ∧ 0x00020007#32 &&& 0x00240000#32 = 0#32 ∧
      0x00040003#32 &&& 0x00240000#32 = 0x00040000#32 ∧ 0x0023000F#32 &&& 0x00240000#32 = 0x00200000#32 ∧
      0x00030000#32 &&& 0x00010000#32 = 0x00010000#32 ∧ 0x00020007#32 &&& 0x00030000#32 = 0x00020000#32 ∧
      0x00040003#32 &&& 0x00030000#32 = 0#32 := by decide

/-- DumpHidesUndefinedBits: two different words that agree on the defined fields (V6 rows 2 and 5). -/
theorem witness_DumpHidesUndefinedBits :
    addresses 0#8 10#16 m10 ∧ (live 0#32).life = .initialized ∧
      readPad (live 0xFFFFFFFF#32).pads m10 &&& 0x0027000F#32 = 0x0027000F#32 ∧
      readPad (live 0xFFFFFFFF#32).pads m10 &&& 0x0027000F#32 = readPad (live 0xFF7FFFFF#32).pads m10 &&& 0x0027000F#32 :=
  ⟨⟨rfl, rfl⟩, rfl, by decide, by decide⟩

/-- PinCommandFrame: another register, and the bytes next to the addressed register. -/
theorem witness_PinCommandFrame :
    ¬ addresses 0#8 10#16 ⟨.main, ⟨11, by decide⟩⟩ ∧ ¬ addresses 0#8 10#16 ⟨.wakeup, ⟨10, by decide⟩⟩ ∧
      0x1C027 < physAddr v8Chip m10 ∧ physAddr v8Chip m10 + 4 ≤ 0x1C02C ∧
      readByte? v8Chip (padsAll 0x12345678#32) 0x1C027 = some 0x12#8 := by
  exact ⟨fun h => absurd h.2 (by decide), fun h => absurd h.1 (by decide), by decide, by decide, by decide⟩

/-- ReadingCommandsStoreNothing, AccessCounts: the forms named. -/
theorem witness_forms :
    ((.dump 0#8 10#16 : Instr) = .getRaw 0#8 10#16 ∨ (.dump 0#8 10#16 : Instr) = .dump 0#8 10#16) ∧
      ((.deinit : Instr) = .init ∨ (.deinit : Instr) = .deinit) := by decide

/-- FieldUpdateAlgebra: the two direction masks are disjoint. -/
theorem witness_FieldUpdateAlgebra : maskInEn &&& maskOutEnN = 0#32 := by decide

/-- ByteAddressedAccess: a size, and two addresses (just past Main's last register, and inside a register), of no register. -/
theorem witness_ByteAddressedAccess :
    (live 0#32).life = .initialized ∧ (idle 0#32).life = .uninitialized ∧ 2 ≠ 4 ∧
      registerAt? v8Chip 0x1C30C = none ∧ registerAt? v8Chip 0x1C30B = some m194 ∧ physAddr v8Chip m194 ≠ 0x1C30B := by
  decide

/-- PhysicalAddressesDistinct: the first and last byte of Main's window, and an address equal to a register's. -/
theorem witness_PhysicalAddressesDistinct :
    (v8.physMain ≤ 0x1C000 ∧ 0x1C30B < v8.physMain + 780) ∧ physAddr v8Chip w69 = physAddr v8Chip ⟨.wakeup, ⟨69, by decide⟩⟩ := by decide

end Sys2Proof.Tests
end

/-! SUPPORT. The state family: what a step may do to the control state, the boundary invariant, the frames of the commands,
and what DUMP reveals. -/

namespace Sys2Proof.Machine

open Sys2Proof

/-! ### Pin commands: one inversion for all eleven -/

theorem instr_cases (i : Instr) : i = .init ∨ i = .deinit ∨ ∃ dom pin, i.pinOperands = some (dom, pin) := by
  cases i with
  | init => exact .inl rfl
  | deinit => exact .inr (.inl rfl)
  | _ => exact .inr (.inr ⟨_, _, rfl⟩)

/-- The checks yield register `a` exactly in Initialized and when the operands name `a` (30_encoding.md R93). -/
theorem checks_eq_passed (dom : BitVec 8) (pin : BitVec 16) (s : State) (a : PinAddr) :
    checks dom pin s = .passed a ↔ s.life = .initialized ∧ addresses dom pin a := by
  constructor
  · intro h
    rcases checks_cases dom pin s with ⟨_, hc⟩ | ⟨_, _, hc⟩ | ⟨_, _, _, _, hc⟩ | ⟨b, hb, hl, hc⟩ <;> rw [hc] at h
    case inr.inr.inr =>
      cases h
      exact ⟨hl, hb⟩
    all_goals cases h
  · rintro ⟨hl, hdom, hpin⟩
    simp [checks, hl, (domainOf?_eq_some dom a.dom).2 hdom, (pinOf?_eq_some a.dom pin a).2 ⟨rfl, hpin⟩]

/-- A pin command either fails a check and only answers, or passes and does to the addressed register what `PinBody` allows. -/
theorem exec_pin_cases {i : Instr} {dom : BitVec 8} {pin : BitVec 16} (h : i.pinOperands = some (dom, pin)) (s : State) :
    ((∀ a, checks dom pin s ≠ .passed a) ∧ ∃ r, exec i s = .next (respond r s)) ∨
    (∃ a t, checks dom pin s = .passed a ∧ exec i s = .next t ∧ PinBody i dom pin a s t) := by
  obtain ⟨soft, body, hexec, -, hbody⟩ := exec_pin_form i dom pin h
  rw [hexec s]
  cases hc : checks dom pin s with
  | passed a => exact .inr ⟨a, body a s, rfl, by simp [pinCommand, hc], hbody a s⟩
  | invalidDomain =>
    refine .inl ⟨by simp, ?_⟩
    cases hs : s.cfg.strictDomain
    · exact ⟨⟨.ok, soft⟩, by simp [pinCommand, hc, hs]⟩
    · exact ⟨⟨.raised .invalidAddress, none⟩, by simp [pinCommand, hc, hs, raise]⟩
  | notInitialized => exact .inl ⟨by simp, ⟨.raised .notInitialized, none⟩, by simp [pinCommand, hc, raise]⟩
  | outOfRange => exact .inl ⟨by simp, ⟨.raised .addressError, none⟩, by simp [pinCommand, hc, raise]⟩

theorem sameControl_respond (r : Response) (s : State) : sameControl s (respond r s) := ⟨rfl, rfl, rfl, rfl, rfl⟩

theorem sameInputs_respond (r : Response) (s : State) : sameInputs s (respond r s) := ⟨rfl, rfl, rfl, rfl⟩

theorem sameControl.life_eq {s t : State} (h : sameControl s t) : t.life = s.life := h.1

theorem sameControl.resource_eq {s t : State} (h : sameControl s t) : t.resource = s.resource := by
  obtain ⟨-, -, -, -, hres⟩ := h
  exact hres

theorem sameInputs.cfg_eq {s t : State} (h : sameInputs s t) : t.cfg = s.cfg := h.1

/-- A pin command completes and leaves the control state, the parameters and the inputs (10_state.md R32). -/
theorem exec_pin_control {i : Instr} {dom : BitVec 8} {pin : BitVec 16} (h : i.pinOperands = some (dom, pin))
    (s : State) : ∃ t, exec i s = .next t ∧ sameControl s t ∧ sameInputs s t := by
  rcases exec_pin_cases h s with ⟨-, r, he⟩ | ⟨a, t, -, he, hb⟩
  · exact ⟨_, he, sameControl_respond r s, sameInputs_respond r s⟩
  · exact ⟨t, he, hb.control, hb.inputs⟩

/-! ### INIT and DEINIT -/

/-- INIT in Initialized only answers; from Uninitialized it acquires with the inputs it sampled, scripted or drawn, and
sampling touches the environment inputs only. -/
theorem exec_init_by_life (s : State) :
    (s.life = .initialized ∧ exec .init s = .next (raise .alreadyInitialized s)) ∨
    (s.life = .uninitialized ∧
      ∃ e env n, exec .init s = .next (acquire (atPorts s.cfg.chip e) { s with env := env, draws := n })) := by
  rcases exec_init_cases s with h | ⟨hl, e, rest, -, he⟩ | ⟨hl, -, he⟩
  · exact .inl h
  · exact .inr ⟨hl, e, rest, s.draws, he⟩
  · exact .inr ⟨hl, drawnEnv s.draws, s.env, s.draws + 1, he⟩

theorem exec_deinit (s : State) : exec .deinit s = .next (respondOk (teardown s)) := rfl

/-- Acquiring leaves the parameters, every pad register and the access trace as they were, granted or denied. -/
theorem acquire_frame (e : EnvInputs) (s : State) :
    (acquire e s).cfg = s.cfg ∧ (acquire e s).pads = s.pads ∧ (acquire e s).access = s.access := by
  rcases acquire_cases e s with ⟨-, h⟩ | ⟨-, -, h⟩ | ⟨-, -, -, h⟩ | ⟨-, -, -, h⟩ <;> rw [h] <;> exact ⟨rfl, rfl, rfl⟩

/-- INIT and DEINIT complete with the parameters, the pad registers and the access trace as before (10_state.md R44). -/
theorem exec_lifecycle_frame {i : Instr} (hi : i = .init ∨ i = .deinit) (s : State) :
    ∃ t, exec i s = .next t ∧ t.cfg = s.cfg ∧ t.pads = s.pads ∧ t.access = s.access := by
  rcases hi with rfl | rfl
  · rcases exec_init_by_life s with ⟨-, he⟩ | ⟨-, e, env, n, he⟩
    · exact ⟨_, he, rfl, rfl, rfl⟩
    · exact ⟨_, he, acquire_frame _ _⟩
  · exact ⟨_, exec_deinit s, rfl, rfl, rfl⟩

/-! ### What a step may do to the control state -/

/-- A step leaves control state, resource trace and parameters, or is an INIT from Uninitialized, or is a DEINIT. -/
theorem step_control_cases {s t : State} (h : step s = .next t) :
    (sameControl s t ∧ t.cfg = s.cfg) ∨
    (∃ c rest, s.host = c :: rest ∧ decode c = .ok .init ∧ s.life = .uninitialized ∧
      ∃ e env n, t = acquire (atPorts s.cfg.chip e) { s with host := rest, env := env, draws := n }) ∨
    (∃ c rest, s.host = c :: rest ∧ decode c = .ok .deinit ∧ t = respondOk (teardown { s with host := rest })) := by
  rcases step_cases s with ⟨-, hs⟩ | ⟨c, rest, e, -, -, hs⟩ | ⟨c, rest, i, hh, hd, hs⟩ <;> rw [hs] at h
  · cases h
    exact .inl ⟨⟨rfl, rfl, rfl, rfl, rfl⟩, rfl⟩
  · cases h
    exact .inl ⟨⟨rfl, rfl, rfl, rfl, rfl⟩, rfl⟩
  · rcases instr_cases i with rfl | rfl | ⟨dom, pin, hi⟩
    · rcases exec_init_by_life { s with host := rest } with ⟨-, he⟩ | ⟨hl, e, env, n, he⟩ <;> rw [he] at h <;> cases h
      · exact .inl ⟨⟨rfl, rfl, rfl, rfl, rfl⟩, rfl⟩
      · exact .inr (.inl ⟨c, rest, hh, hd, hl, e, env, n, rfl⟩)
    · cases h
      exact .inr (.inr ⟨c, rest, hh, hd, rfl⟩)
    · obtain ⟨u, he, hcontrol, hinputs⟩ := exec_pin_control hi { s with host := rest }
      rw [he] at h
      cases h
      exact .inl ⟨hcontrol, hinputs.cfg_eq⟩

/-! ### The boundary invariant (10_state.md R38, 40_lifecycle.md R117) -/

theorem account_append (h : Held) (es fs : List ResourceEvent) :
    account h (es ++ fs) = (account h es).bind fun h' => account h' fs := by
  induction es generalizing h with
  | nil => rfl
  | cons e es ih =>
    simp only [List.cons_append, account]
    cases heldAfter h e with
    | none => rfl
    | some h' => exact ih h'

/-- Releasing exactly what is held leaves nothing held. -/
theorem account_released_self (h : Held) : account h [.released h] = some Held.empty := by
  simp [account, heldAfter, Held.empty]

/-- A coherent control state holds what is due in its lifecycle state: everything or nothing. -/
theorem heldNow_of_coherent {s : State} (h : controlCoherent s) : heldNow s = Held.due s.life := by
  rcases h with ⟨hl, hd, hm, hw⟩ | ⟨hl, hd, ⟨hm, -⟩, hw, -⟩
  · simp [heldNow, Held.due, Held.empty, Window.none, hl, hd, hm, hw]
  · simp [heldNow, Held.due, Held.full, hl, hd, hm, hw]

theorem controlReset_of_uninitialized {s : State} (h : controlCoherent s) (hl : s.life = .uninitialized) :
    controlReset s := by
  rcases h with h | ⟨hl', -⟩
  · exact h
  · rw [hl] at hl'
    cases hl'

theorem sameControl.heldNow_eq {s t : State} (h : sameControl s t) : heldNow t = heldNow s := by
  obtain ⟨-, hd, hm, hw, -⟩ := h
  simp [heldNow, hd, hm, hw]

theorem sameControl.coherent {s t : State} (h : sameControl s t) (hcfg : t.cfg = s.cfg) (hs : controlCoherent s) :
    controlCoherent t := by
  obtain ⟨hl, hd, hm, hw, -⟩ := h
  simpa only [controlCoherent, controlReset, controlHeld, hl, hd, hm, hw, hcfg] using hs

/-- Acquiring ends with everything held or with the reset control state, whatever the environment answers. -/
theorem acquire_coherent (e : EnvInputs) (s : State) : controlCoherent (acquire (atPorts s.cfg.chip e) s) := by
  rcases acquire_cases (atPorts s.cfg.chip e) s with ⟨-, h⟩ | ⟨-, -, h⟩ | ⟨-, -, -, h⟩ | ⟨-, -, -, h⟩ <;> rw [h]
  case inr.inr.inr =>
    exact .inr ⟨rfl, rfl, ⟨rfl, _, toAddrWidth_lt s.cfg.chip e.mapBaseMain, rfl, rfl⟩,
      ⟨rfl, _, toAddrWidth_lt s.cfg.chip e.mapBaseWakeup, rfl, rfl⟩⟩
  all_goals exact .inl ⟨rfl, rfl, rfl, rfl⟩

/-- From nothing held, the events of acquiring account for what is held after it: one case per row of 40_lifecycle.md R112. -/
theorem acquire_accounts (e : EnvInputs) {s : State} (hs : controlReset s) :
    ∃ evs, (acquire e s).resource = s.resource ++ evs ∧ account (heldNow s) evs = some (heldNow (acquire e s)) := by
  obtain ⟨-, hd, hm, hw⟩ := hs
  have hheld : heldNow s = Held.empty := by simp [heldNow, Held.empty, Window.none, hd, hm, hw]
  rw [hheld]
  rcases acquire_cases e s with ⟨-, h⟩ | ⟨-, -, h⟩ | ⟨-, -, -, h⟩ | ⟨-, -, -, h⟩ <;> rw [h]
  case inr.inr.inr => exact ⟨_, rfl, rfl⟩
  all_goals
    refine ⟨_, rfl, ?_⟩
    simp only [hd, hm, hw]
    rfl

/-- The events a step appends take the account from the set held before it to the set held after it. -/
theorem step_accounts {s t : State} (hs : controlCoherent s) (h : step s = .next t) :
    ∃ evs, t.resource = s.resource ++ evs ∧ account (heldNow s) evs = some (heldNow t) := by
  rcases step_control_cases h with ⟨hc, -⟩ | ⟨_, _, -, -, hl, _, _, _, rfl⟩ | ⟨_, _, -, -, rfl⟩
  · exact ⟨[], by simp [hc.resource_eq], by simp [account, hc.heldNow_eq]⟩
  · exact acquire_accounts _ (controlReset_of_uninitialized hs hl)
  · exact ⟨_, rfl, account_released_self (heldNow s)⟩

theorem step_keeps_coherent {s t : State} (hs : controlCoherent s) (h : step s = .next t) : controlCoherent t := by
  rcases step_control_cases h with ⟨hc, hcfg⟩ | ⟨_, rest, -, -, -, e, env, n, rfl⟩ | ⟨_, _, -, -, rfl⟩
  · exact hc.coherent hcfg hs
  · exact acquire_coherent e { s with host := rest, env := env, draws := n }
  · exact .inl ⟨rfl, rfl, rfl, rfl⟩

/-- Settles O58: coherence is kept, and the account of the old trace followed by the step's own events is what the new
state holds, which in a coherent state is what is due. -/
theorem boundaryInvariantKept : Obligations.BoundaryInvariantKept := by
  rintro s t ⟨hcoh, hleak⟩ h
  have hcoh' := step_keeps_coherent hcoh h
  obtain ⟨evs, hres, hacc⟩ := step_accounts hcoh h
  refine ⟨hcoh', ?_⟩
  calc account Held.empty t.resource
      = (account Held.empty s.resource).bind fun h' => account h' evs := by rw [hres, account_append]
    _ = account (heldNow s) evs := by rw [hleak, heldNow_of_coherent hcoh, Option.bind_some]
    _ = some (Held.due t.life) := by rw [hacc, heldNow_of_coherent hcoh']

/-- Settles O59: nothing is held at reset and the resource trace is empty. -/
theorem boundaryInvariantAtReset : Obligations.BoundaryInvariantAtReset := ⟨.inl ⟨rfl, rfl, rfl, rfl⟩, rfl⟩

/-! ### The lifecycle -/

/-- Settles O23, from the frame of INIT and DEINIT; the byte view depends on the chip and the pads only. -/
theorem lifecycleKeepsPads : Obligations.LifecycleKeepsPads := by
  intro s
  obtain ⟨t, he, hcfg, hpads, hacc⟩ := exec_lifecycle_frame (.inl rfl) s
  obtain ⟨t', he', hcfg', hpads', hacc'⟩ := exec_lifecycle_frame (.inr rfl) s
  exact ⟨⟨t, he, hpads, hacc, fun addr => by rw [hcfg, hpads]⟩,
    ⟨t', he', hpads', hacc', fun addr => by rw [hcfg', hpads']⟩, rfl⟩

/-- Settles O24: of what a step may do to the control state, only a granted INIT and a DEINIT change `LIFE`. -/
theorem lifecycleTransitions : Obligations.LifecycleTransitions := by
  intro s t h hne
  rcases step_control_cases h with ⟨hc, -⟩ | ⟨c, rest, hh, hd, hl, e, env, n, rfl⟩ | ⟨c, rest, hh, hd, rfl⟩
  · exact absurd hc.life_eq hne
  · rcases acquire_cases (atPorts s.cfg.chip e) { s with host := rest, env := env, draws := n } with
      ⟨-, ha⟩ | ⟨-, -, ha⟩ | ⟨-, -, -, ha⟩ | ⟨-, -, -, ha⟩ <;> rw [ha] at hne ⊢
    case inr.inr.inr => exact .inl ⟨hl, rfl, rfl, c, rest, hh, hd⟩
    all_goals exact absurd hl.symm hne
  · have hinit : s.life = .initialized := by
      cases hl : s.life with
      | initialized => rfl
      | uninitialized => exact absurd hl.symm hne
    exact .inr ⟨hinit, rfl, c, rest, hh, hd⟩

/-! ### What DUMP reveals -/

/-- Words that agree under a mask agree at every bit of the mask. -/
theorem getLsbD_eq_of_and_eq {v w m : Word} (h : v &&& m = w &&& m) {k : Nat} (hk : m.getLsbD k = true) :
    v.getLsbD k = w.getLsbD k := by
  simpa [hk] using congrArg (·.getLsbD k) h

/-- The direction is a function of bits 18 and 21 (45_dump.md R161). -/
theorem directionOf_congr {v w : Word} (hin : v.getLsbD 18 = w.getLsbD 18) (hout : v.getLsbD 21 = w.getLsbD 21) :
    directionOf v = directionOf w := by
  simp only [directionOf, hin, hout]

/-- The pull state is a function of bits 16 and 17 (45_dump.md R162). -/
theorem pullOf_congr {v w : Word} (hen : v.getLsbD 16 = w.getLsbD 16) (hsel : v.getLsbD 17 = w.getLsbD 17) :
    pullOf v = pullOf w := by
  simp only [pullOf, hen, hsel]

theorem pullOf_disabled {v : Word} (h : v.getLsbD 16 = true) : pullOf v = .disabled := by
  simp only [pullOf, h]

theorem directionOf_of_and {v w : Word} (h : v &&& 0x00240000#32 = w &&& 0x00240000#32) :
    directionOf v = directionOf w :=
  directionOf_congr (getLsbD_eq_of_and_eq h (by decide)) (getLsbD_eq_of_and_eq h (by decide))

theorem pullOf_of_and {v w : Word} (h : v &&& 0x00030000#32 = w &&& 0x00030000#32) : pullOf v = pullOf w :=
  pullOf_congr (getLsbD_eq_of_and_eq h (by decide)) (getLsbD_eq_of_and_eq h (by decide))

/-- The record of a word reads the defined fields alone (10_state.md R28). -/
theorem dumpRecord_of_and {v w : Word} (h : v &&& 0x0027000F#32 = w &&& 0x0027000F#32) :
    dumpRecord v = dumpRecord w := by
  have hdir : directionOf v = directionOf w :=
    directionOf_congr (getLsbD_eq_of_and_eq h (by decide)) (getLsbD_eq_of_and_eq h (by decide))
  have hpull : pullOf v = pullOf w :=
    pullOf_congr (getLsbD_eq_of_and_eq h (by decide)) (getLsbD_eq_of_and_eq h (by decide))
  have hmask : ∀ k < 4, (0x0027000F#32).getLsbD k = true := by decide
  have hmux : v.extractLsb' 0 4 = w.extractLsb' 0 4 := by
    apply BitVec.eq_of_getLsbD_eq
    intro k hk
    simp [hk, getLsbD_eq_of_and_eq h (hmask k hk)]
  simp only [dumpRecord, hdir, hpull, hmux]

/-- DUMP of a valid address in Initialized answers the record of the register addressed (45_dump.md R160). -/
theorem exec_dump_of_addresses {dom : BitVec 8} {pin : BitVec 16} {a : PinAddr} {s : State}
    (ha : addresses dom pin a) (hl : s.life = .initialized) :
    exec (.dump dom pin) s = .next (afterRead s a (dumpWord (dumpRecord (readPad s.pads a)))) := by
  simp [exec, execDump, pinCommand, (checks_eq_passed dom pin s a).2 ⟨hl, ha⟩, respondData, respond, afterRead]

/-- Settles O44: each clause compares the word with the constant it agrees with under the mask. -/
theorem fieldDecoding : Obligations.FieldDecoding := by
  intro v
  refine ⟨fun h => ?_, fun h => ?_, fun h => ?_, fun h => ?_, fun h => ?_, fun h => ?_, fun h => ?_⟩
  · exact directionOf_of_and (w := 0x00240000#32) h
  · exact directionOf_of_and (w := 0x00000000#32) h
  · exact directionOf_of_and (w := 0x00040000#32) h
  · exact directionOf_of_and (w := 0x00200000#32) h
  · exact pullOf_disabled (getLsbD_eq_of_and_eq (w := 0x00010000#32) h (by decide))
  · exact pullOf_of_and (w := 0x00020000#32) h
  · exact pullOf_of_and (w := 0x00000000#32) h

/-- Settles O46: the response is the record of the register addressed, and equal defined fields make equal records. -/
theorem dumpHidesUndefinedBits : Obligations.DumpHidesUndefinedBits := by
  intro s s' dom pin a ha hl hl' h
  refine ⟨_, _, ⟨.ok, some (dumpWord (dumpRecord (readPad s.pads a)))⟩, exec_dump_of_addresses ha hl,
    exec_dump_of_addresses ha hl', rfl, ?_⟩
  rw [dumpRecord_of_and h]
  rfl

/-! ### Frames of the pin commands -/

/-- Settles O47: a command that fails a check only answers; one that passes stores the addressed register alone. -/
theorem pinCommandFrame : Obligations.PinCommandFrame := by
  intro i dom pin s hi
  rcases exec_pin_cases hi s with ⟨hfail, r, he⟩ | ⟨a, t, hc, he, hb⟩
  · exact ⟨_, he, sameControl_respond r s, sameInputs_respond r s, fun _ _ => rfl,
      fun a ha => absurd ha (hfail a), fun _ => ⟨rfl, rfl⟩⟩
  · obtain ⟨w, hpads⟩ := hb.pads
    have haddr : addresses dom pin a := ((checks_eq_passed dom pin s a).1 hc).2
    refine ⟨t, he, hb.control, hb.inputs, fun b hnb => ?_, fun a' ha' addr hout => ?_, fun hfail => absurd hc (hfail a)⟩
    · have hne : b ≠ a := fun hba => hnb (hba ▸ haddr)
      rw [hpads, readPad_writePad_other s.pads a b w hne]
    · rw [hc] at ha'
      cases ha'
      rw [hpads, hb.inputs.cfg_eq, readByte?_writePad_outside s.cfg.chip s.pads a w addr hout]

/-- Settles O48: the accesses of the two reading commands leave the pads, so every byte reads as before. -/
theorem readingCommandsStoreNothing : Obligations.ReadingCommandsStoreNothing := by
  intro i dom pin s hread
  have hi : i.pinOperands = some (dom, pin) := by rcases hread with rfl | rfl <;> rfl
  rcases exec_pin_cases hi s with ⟨-, r, he⟩ | ⟨a, t, -, he, hb⟩
  · exact ⟨_, he, rfl, sameControl_respond r s, sameInputs_respond r s, fun _ => rfl⟩
  · have hpads : t.pads = s.pads := hb.reads hread
    exact ⟨t, he, hpads, hb.control, hb.inputs, fun addr => by rw [hpads, hb.inputs.cfg_eq]⟩

/-- Settles O49: the accesses are those of the body of a pin command whose checks pass, and none otherwise. -/
theorem accessCounts : Obligations.AccessCounts := by
  constructor
  · intro i dom pin s hi
    rcases exec_pin_cases hi s with ⟨hfail, r, he⟩ | ⟨a, t, hc, he, hb⟩
    · exact ⟨_, [], he, by simp, fun a ha => absurd ha (hfail a), fun _ => rfl⟩
    · obtain ⟨evs, hacc, hlen, haddr⟩ := hb.access
      refine ⟨t, evs, he, hacc, fun a' ha' => ?_, fun hfail => absurd hc (hfail a)⟩
      rw [hc] at ha'
      cases ha'
      exact ⟨hlen, haddr⟩
  · intro i s hi
    obtain ⟨t, he, -, -, hacc⟩ := exec_lifecycle_frame hi s
    exact ⟨t, he, hacc⟩

end Sys2Proof.Machine

/-! SUPPORT. The memory family: the field update, register and byte-addressed access, the checks of a pin command, the
windows with their mapping, and which selections commute. -/

namespace Sys2Proof.Machine

open Sys2Proof

/-! ### The field update (20_memory.md R58, R76) -/

/-- The field update bit by bit: the new value inside the mask, the old word outside it. -/
theorem getElem_fieldUpdate (t mask val : Word) (k : Nat) (hk : k < 32) :
    (fieldUpdate t mask val)[k] = if mask[k] then val[k] else t[k] := by
  cases hm : mask[k] <;> simp [fieldUpdate, hm]

/-- Bits outside the mask are kept. -/
theorem fieldUpdate_and_not_mask (t mask val : Word) : fieldUpdate t mask val &&& ~~~mask = t &&& ~~~mask := by
  ext k hk
  cases hm : mask[k] <;> simp [getElem_fieldUpdate, hm]

/-- Bits inside the mask are replaced. -/
theorem fieldUpdate_and_mask (t mask val : Word) : fieldUpdate t mask val &&& mask = val &&& mask := by
  ext k hk
  cases hm : mask[k] <;> simp [getElem_fieldUpdate, hm]

/-- Two updates in a row are one update of both fields; where the masks overlap, the second wins. -/
theorem fieldUpdate_fieldUpdate (t m v m' v' : Word) :
    fieldUpdate (fieldUpdate t m v) m' v' = fieldUpdate t (m ||| m') (fieldUpdate v m' v') := by
  ext k hk
  cases hm : m[k] <;> cases hm' : m'[k] <;> simp [getElem_fieldUpdate, hm, hm']

theorem fieldUpdate_idem (t m v : Word) : fieldUpdate (fieldUpdate t m v) m v = fieldUpdate t m v := by
  ext k hk
  cases hm : m[k] <;> simp [getElem_fieldUpdate, hm]

/-- Updates with disjoint masks commute: no bit is in both masks. -/
theorem fieldUpdate_comm {m m' : Word} (h : m &&& m' = 0#32) (t v v' : Word) :
    fieldUpdate (fieldUpdate t m v) m' v' = fieldUpdate (fieldUpdate t m' v') m v := by
  ext k hk
  have hbit : (m[k] && m'[k]) = false := by simpa using congrArg (·[k]) h
  cases hm : m[k] <;> cases hm' : m'[k] <;> simp_all [getElem_fieldUpdate]

/-- Settles O51. -/
theorem fieldUpdateAlgebra : Obligations.FieldUpdateAlgebra :=
  ⟨fun _ _ _ => rfl, fieldUpdate_idem, fun t _ v _ v' h => fieldUpdate_comm h t v v'⟩

/-- Settles O50: the cycle writes the field update of the word it reads. -/
theorem readModifyWriteCycle : Obligations.ReadModifyWriteCycle := by
  intro a mask val s
  refine ⟨_, rmw_eq a mask val s, rfl, ?_, ?_⟩ <;> simp only [rmw_eq, readPad_writePad_same]
  · exact fieldUpdate_and_not_mask _ mask val
  · exact fieldUpdate_and_mask _ mask val

/-! ### The checks of a pin command (20_memory.md R54, R55) -/

theorem domainNumber_lt_two (d : Domain) : domainNumber d < 2 := by cases d <;> decide

theorem domainNumber_injective : Function.Injective domainNumber
  | .main, .main, _ => rfl
  | .wakeup, .wakeup, _ => rfl

theorem checks_eq_invalidDomain (dom : BitVec 8) (pin : BitVec 16) (s : State) :
    checks dom pin s = .invalidDomain ↔ 2 ≤ dom.toNat := by
  rcases checks_cases dom pin s with ⟨h, hc⟩ | ⟨h, -, hc⟩ | ⟨d, h, -, -, hc⟩ | ⟨a, ⟨h, -⟩, -, hc⟩ <;> rw [hc]
  · simpa using h
  · simpa using h
  · simpa [h] using domainNumber_lt_two d
  · simpa [h] using domainNumber_lt_two a.dom

theorem checks_eq_notInitialized (dom : BitVec 8) (pin : BitVec 16) (s : State) :
    checks dom pin s = .notInitialized ↔ dom.toNat < 2 ∧ s.life = .uninitialized := by
  rcases checks_cases dom pin s with ⟨h, hc⟩ | ⟨h, hl, hc⟩ | ⟨d, -, -, hl, hc⟩ | ⟨a, -, hl, hc⟩ <;> rw [hc]
  · exact iff_of_false (by simp) fun hn => by omega
  · simp [h, hl]
  · simp [hl]
  · simp [hl]

theorem checks_eq_outOfRange (dom : BitVec 8) (pin : BitVec 16) (s : State) :
    checks dom pin s = .outOfRange ↔
      s.life = .initialized ∧ ∃ d : Domain, dom.toNat = domainNumber d ∧ d.count ≤ pin.toNat := by
  rcases checks_cases dom pin s with ⟨h, hc⟩ | ⟨-, hl, hc⟩ | ⟨d, h, hp, hl, hc⟩ | ⟨a, ⟨h, hp⟩, hl, hc⟩ <;> rw [hc]
  · have hne : ∀ d, dom.toNat ≠ domainNumber d := fun d => by have := domainNumber_lt_two d; omega
    simp [hne]
  · simp [hl]
  · exact iff_of_true rfl ⟨hl, d, h, hp⟩
  · refine iff_of_false (by simp) ?_
    rintro ⟨-, d, hd, hle⟩
    have hdom : a.dom = d := domainNumber_injective (h.symm.trans hd)
    subst hdom
    exact absurd a.idx.isLt (by omega)

/-- Some domain's count is exceeded: the two windows spelled out (00_scope.md R8, 30_encoding.md R84). -/
theorem exceedsCount_iff (dom : BitVec 8) (pin : BitVec 16) :
    (∃ d : Domain, dom.toNat = domainNumber d ∧ d.count ≤ pin.toNat) ↔
      (dom.toNat = 0 ∧ 195 ≤ pin.toNat) ∨ (dom.toNat = 1 ∧ 70 ≤ pin.toNat) := by
  constructor
  · rintro ⟨d, h⟩
    cases d with
    | main => exact .inl h
    | wakeup => exact .inr h
  · rintro (h | h)
    · exact ⟨.main, h⟩
    · exact ⟨.wakeup, h⟩

/-- Settles O14. -/
theorem checkOrder : Obligations.CheckOrder := fun dom pin s =>
  ⟨checks_eq_invalidDomain dom pin s, checks_eq_notInitialized dom pin s,
    (checks_eq_outOfRange dom pin s).trans (and_congr_right fun _ => exceedsCount_iff dom pin), checks_eq_passed dom pin s⟩

/-! ### INIT with everything granted (40_lifecycle.md R111) -/

/-- A scripted answer whose bases are `ADDR_W`-bit numbers reaches the ports as it stands (30_encoding.md R101). -/
theorem atPorts_of_lt {c : Chip} {e : EnvInputs} (hm : e.mapBaseMain < 2 ^ c.params.addrW)
    (hw : e.mapBaseWakeup < 2 ^ c.params.addrW) : atPorts c e = e := by
  simp only [atPorts, toAddrWidth_of_lt c _ hm, toAddrWidth_of_lt c _ hw]

/-- From Uninitialized with an answer scripted, INIT acquires with that answer as it reaches the ports. -/
theorem exec_init_scripted {s : State} {e : EnvInputs} {rest : List EnvInputs} (hl : s.life = .uninitialized)
    (he : s.env = e :: rest) : exec .init s = .next (acquire (atPorts s.cfg.chip e) { s with env := rest }) := by
  simp only [exec, execInit, hl, sampleEnv, he]

/-- Acquiring with everything granted: everything is held, the handle built from the bases returned (40_lifecycle.md R112). -/
theorem acquire_granted {e : EnvInputs} (hd : e.devOk = true) (hm : e.mapOkMain = true) (hw : e.mapOkWakeup = true)
    (s : State) : acquire e s = { s with
      life := .initialized
      devOpen := true
      winMain := ⟨true, some e.mapBaseMain, some (regBaseOf s.cfg.chip .main e.mapBaseMain)⟩
      winWakeup := ⟨true, some e.mapBaseWakeup, some (regBaseOf s.cfg.chip .wakeup e.mapBaseWakeup)⟩
      resource := s.resource ++ [.opened, .mapped .main, .mapped .wakeup]
      responses := s.responses ++ [⟨.ok, none⟩] } := by
  rcases acquire_cases e s with ⟨h, -⟩ | ⟨-, h, -⟩ | ⟨-, -, h, -⟩ | ⟨-, -, -, h⟩
  · exact absurd (hd.symm.trans h) (by decide)
  · exact absurd (hm.symm.trans h) (by decide)
  · exact absurd (hw.symm.trans h) (by decide)
  · exact h

/-- Settles O21: what is held does not depend on whether the sum for `REG_BASE` fits. -/
theorem initWithWrappingBase : Obligations.InitWithWrappingBase := by
  rintro s e rest ⟨hl, -⟩ he hd hm hw hbm hbw
  have hexec := exec_init_scripted hl he
  rw [atPorts_of_lt hbm hbw, acquire_granted hd hm hw] at hexec
  exact ⟨_, hexec, ⟨rfl, rfl, ⟨rfl, _, hbm, rfl, rfl⟩, rfl, _, hbw, rfl, rfl⟩, rfl, rfl, rfl, rfl⟩

/-! ### The parameters (70_reset_and_hazards.md R203) -/

/-- The same state on another chip. -/
def onChip (c : Chip) (s : State) : State := { s with cfg := { s.cfg with chip := c } }

/-- A pin command whose answer and accesses do not look at the chip ends alike on every chip. -/
theorem pinCommand_onChip (c : Chip) (dom : BitVec 8) (pin : BitVec 16) {soft : State → State}
    {body : PinAddr → State → State} (hsoft : ∀ t, soft (onChip c t) = onChip c (soft t))
    (hbody : ∀ a t, body a (onChip c t) = onChip c (body a t)) (s : State) :
    pinCommand dom pin soft body (onChip c s) = onChip c (pinCommand dom pin soft body s) := by
  have hc : checks dom pin (onChip c s) = checks dom pin s := checks_congr dom pin rfl
  unfold pinCommand
  rw [hc]
  cases checks dom pin s with
  | invalidDomain =>
    have hs : (onChip c s).cfg.strictDomain = s.cfg.strictDomain := rfl
    dsimp only
    rw [hs]
    split
    · rfl
    · exact hsoft s
  | notInitialized => rfl
  | outOfRange => rfl
  | passed a => exact hbody a s

/-- Every pin command ends alike on every chip: the accesses reach a register by domain and index (20_memory.md R65). -/
theorem exec_pin_onChip {i : Instr} {dom : BitVec 8} {pin : BitVec 16} (hi : i.pinOperands = some (dom, pin))
    (c : Chip) (s : State) : ∃ t, exec i s = .next t ∧ exec i (onChip c s) = .next (onChip c t) := by
  cases i with
  | init => cases hi
  | deinit => cases hi
  | _ =>
    refine ⟨_, rfl, congrArg Host.Outcome.next (pinCommand_onChip c _ _ ?_ ?_ s)⟩
    · exact fun _ => rfl
    · exact fun _ _ => rfl

theorem step_keeps_cfg {s t : State} (h : step s = .next t) : t.cfg = s.cfg := by
  rcases step_control_cases h with ⟨-, hcfg⟩ | ⟨_, _, -, -, -, _, _, _, rfl⟩ | ⟨_, _, -, -, rfl⟩
  · exact hcfg
  · obtain ⟨hcfg, -⟩ := acquire_frame _ _
    exact hcfg
  · rfl

/-- Settles O13. -/
theorem parametersFixed : Obligations.ParametersFixed := by
  refine ⟨fun _ _ => step_keeps_cfg, fun _ => rfl, fun i dom pin s c hi => ?_⟩
  obtain ⟨t, he, hchip⟩ := exec_pin_onChip hi c s
  obtain ⟨t', he', -, hinputs⟩ := exec_pin_control hi s
  rw [he] at he'
  cases he'
  rw [onChip, onChip, hinputs.cfg_eq] at hchip
  exact ⟨t, he, hchip⟩

/-! ### Selections of one pin (20_memory.md R76) -/

/-- The fields a SELECT operation writes, as one mask. -/
def selectMask : Instr → Word
  | .selectFunction _ _ _ => maskMux
  | .selectInput _ _ => maskInEn ||| maskOutEnN
  | .selectOutput _ _ => maskInEn ||| maskOutEnN
  | .selectInout _ _ => maskInEn ||| maskOutEnN
  | .selectHiz _ _ => maskInEn ||| maskOutEnN
  | .selectPullUp _ _ => maskPullEnN ||| maskPullSel
  | .selectPullDown _ _ => maskPullEnN ||| maskPullSel
  | .selectPullDisable _ _ => maskPullEnN
  | .init => 0#32
  | .deinit => 0#32
  | .getRaw _ _ => 0#32
  | .setRaw _ _ _ => 0#32
  | .dump _ _ => 0#32

/-- The pads after one field update of the register the checks yield; as before when a check fails. -/
def padsUpdated (dom : BitVec 8) (pin : BitVec 16) (mask val : Word) (s : State) : Pads :=
  match checks dom pin s with
  | .passed a => writePad s.pads a (fieldUpdate (readPad s.pads a) mask val)
  | _ => s.pads

/-- The command `i` on `dom`, `pin` does one field update to the pads, with the same value from every state. -/
def UpdatesField (i : Instr) (dom : BitVec 8) (pin : BitVec 16) (mask : Word) : Prop :=
  ∃ val, ∀ s, ∃ t, exec i s = .next t ∧ t.life = s.life ∧ t.pads = padsUpdated dom pin mask val s

theorem padsUpdated_of_passed {dom : BitVec 8} {pin : BitVec 16} {s : State} {a : PinAddr}
    (h : checks dom pin s = .passed a) (mask val : Word) :
    padsUpdated dom pin mask val s = writePad s.pads a (fieldUpdate (readPad s.pads a) mask val) := by
  simp only [padsUpdated, h]

theorem padsUpdated_of_failed {dom : BitVec 8} {pin : BitVec 16} {s : State}
    (h : ∀ a, checks dom pin s ≠ .passed a) (mask val : Word) : padsUpdated dom pin mask val s = s.pads := by
  unfold padsUpdated
  split
  · next a hc => exact absurd hc (h a)
  · rfl

theorem mutate_pads {accesses : PinAddr → State → State} {mask val : Word}
    (h : ∀ a s, (accesses a s).pads = writePad s.pads a (fieldUpdate (readPad s.pads a) mask val))
    (dom : BitVec 8) (pin : BitVec 16) (s : State) :
    (mutate dom pin accesses s).pads = padsUpdated dom pin mask val s := by
  unfold mutate pinCommand padsUpdated
  cases checks dom pin s with
  | passed a => exact h a s
  | invalidDomain => cases hs : s.cfg.strictDomain <;> rfl
  | notInitialized => rfl
  | outOfRange => rfl

/-- A mutating command whose accesses update one field of the addressed register. -/
theorem updatesField_of_mutate {i : Instr} {dom : BitVec 8} {pin : BitVec 16} {accesses : PinAddr → State → State}
    {mask val : Word} (hi : i.pinOperands = some (dom, pin)) (hexec : ∀ s, exec i s = .next (mutate dom pin accesses s))
    (h : ∀ a s, (accesses a s).pads = writePad s.pads a (fieldUpdate (readPad s.pads a) mask val)) :
    UpdatesField i dom pin mask := by
  refine ⟨val, fun s => ?_⟩
  obtain ⟨t, he, hcontrol, -⟩ := exec_pin_control hi s
  refine ⟨t, he, hcontrol.life_eq, ?_⟩
  rw [hexec] at he
  cases he
  exact mutate_pads h dom pin s

theorem updatesField_of_rmw {i : Instr} {dom : BitVec 8} {pin : BitVec 16} {mask val : Word}
    (hi : i.pinOperands = some (dom, pin))
    (hexec : ∀ s, exec i s = .next (mutate dom pin (fun a => rmw a mask val) s)) : UpdatesField i dom pin mask :=
  updatesField_of_mutate hi hexec fun a s => by rw [rmw_eq]

/-- The two cycles of a two-field operation are one update of both fields. -/
theorem updatesField_of_rmwTwice {i : Instr} {dom : BitVec 8} {pin : BitVec 16} {m1 v1 m2 v2 : Word}
    (hi : i.pinOperands = some (dom, pin))
    (hexec : ∀ s, exec i s = .next (mutate dom pin (rmwTwice m1 v1 m2 v2) s)) :
    UpdatesField i dom pin (m1 ||| m2) :=
  updatesField_of_mutate hi hexec fun a s => by rw [rmwTwice_eq, fieldUpdate_fieldUpdate]

/-- Each of the eight SELECT operations is one update of its fields. -/
theorem exec_select_updatesField {i : Instr} {dom : BitVec 8} {pin : BitVec 16} (hsel : isSelect i = true)
    (hi : i.pinOperands = some (dom, pin)) : UpdatesField i dom pin (selectMask i) := by
  cases i <;> cases hi
  case getRaw | setRaw | dump => cases hsel
  case selectFunction | selectPullDisable => exact updatesField_of_rmw rfl fun _ => rfl
  all_goals exact updatesField_of_rmwTwice rfl fun _ => rfl

/-- Two commands on one pin that update disjoint fields leave the same pads in either order. -/
theorem UpdatesField.commute {i j : Instr} {dom : BitVec 8} {pin : BitVec 16} {m m' : Word}
    (hi : UpdatesField i dom pin m) (hj : UpdatesField j dom pin m') (hdisj : m &&& m' = 0#32) (s : State) :
    ∃ t u t' u', exec i s = .next t ∧ exec j t = .next u ∧ exec j s = .next t' ∧ exec i t' = .next u' ∧
      u.pads = u'.pads := by
  obtain ⟨v, hi⟩ := hi
  obtain ⟨v', hj⟩ := hj
  obtain ⟨t, ht, htl, htp⟩ := hi s
  obtain ⟨u, hu, -, hup⟩ := hj t
  obtain ⟨t', ht', htl', htp'⟩ := hj s
  obtain ⟨u', hu', -, hup'⟩ := hi t'
  refine ⟨t, u, t', u', ht, hu, ht', hu', ?_⟩
  have hct := checks_congr dom pin htl
  have hct' := checks_congr dom pin htl'
  by_cases hp : ∃ a, checks dom pin s = .passed a
  · obtain ⟨a, ha⟩ := hp
    rw [padsUpdated_of_passed ha] at htp htp'
    rw [padsUpdated_of_passed (hct.trans ha)] at hup
    rw [padsUpdated_of_passed (hct'.trans ha)] at hup'
    simp only [hup, hup', htp, htp', readPad_writePad_same, writePad_writePad, fieldUpdate_comm hdisj]
  · have hf : ∀ a, checks dom pin s ≠ .passed a := not_exists.1 hp
    rw [padsUpdated_of_failed hf] at htp htp'
    rw [padsUpdated_of_failed (hct ▸ hf)] at hup
    rw [padsUpdated_of_failed (hct' ▸ hf)] at hup'
    rw [hup, hup', htp, htp']

/-- Settles O38: the fields of a direction, of a pull and of a function selection are disjoint. -/
theorem selectKindsCommute : Obligations.SelectKindsCommute := by
  intro s dom pin fn d p h
  simp only [List.mem_cons, List.not_mem_nil, or_false] at h
  obtain ⟨hdsel, hdops⟩ : isSelect d = true ∧ d.pinOperands = some (dom, pin) := by
    rcases h with ⟨rfl | rfl | rfl | rfl, -⟩ | ⟨rfl | rfl | rfl, -⟩ <;> exact ⟨rfl, rfl⟩
  obtain ⟨hpsel, hpops⟩ : isSelect p = true ∧ p.pinOperands = some (dom, pin) := by
    rcases h with ⟨-, rfl | rfl | rfl | rfl⟩ | ⟨-, rfl⟩ <;> exact ⟨rfl, rfl⟩
  have hdisj : selectMask d &&& selectMask p = 0#32 := by
    rcases h with ⟨rfl | rfl | rfl | rfl, rfl | rfl | rfl | rfl⟩ | ⟨rfl | rfl | rfl, rfl⟩ <;>
      simp only [selectMask] <;> decide
  exact (exec_select_updatesField hdsel hdops).commute (exec_select_updatesField hpsel hpops) hdisj s

/-! ### Byte-addressed access (20_memory.md R59) -/

/-- A byte-addressed access reaches register `a` exactly in Initialized, with size 4, at `PA(d, p)` of `a`. -/
theorem memTarget_eq_ok (addr n : Nat) (s : State) (a : PinAddr) :
    memTarget addr n s = .ok a ↔ s.life = .initialized ∧ n = 4 ∧ addr = physAddr s.cfg.chip a := by
  unfold memTarget
  constructor
  · intro h
    split at h
    · cases h
    · next hl =>
      split at h
      · cases h
      · next hn =>
        split at h
        · split at h
          · next hb =>
            cases h
            exact ⟨not_not.1 hl, not_not.1 hn, hb⟩
          · cases h
        · cases h
  · rintro ⟨hl, rfl, rfl⟩
    have ha := (registerAt?_eq_some s.cfg.chip (physAddr s.cfg.chip a) a).2 ⟨le_rfl, by omega⟩
    simp [hl, ha]

theorem memTarget_uninitialized (addr n : Nat) {s : State} (hl : s.life = .uninitialized) :
    memTarget addr n s = .error .windowNotMapped := by
  simp [memTarget, hl]

/-- Settles O52. -/
theorem byteAddressedAccess : Obligations.ByteAddressedAccess := by
  refine ⟨fun s a v hl => ?_, fun s addr n v hnone => ?_, fun s addr n v hl => ?_⟩
  · have ht := (memTarget_eq_ok _ 4 s a).2 ⟨hl, rfl, rfl⟩
    simp only [memRead, memWrite, ht, and_self]
  · cases ht : memTarget addr n s with
    | error f => exact ⟨⟨f, by simp only [memRead, ht]⟩, f, by simp only [memWrite, ht]⟩
    | ok a =>
      obtain ⟨-, hn, ha⟩ := (memTarget_eq_ok addr n s a).1 ht
      rcases hnone with hn' | hne
      · exact absurd hn hn'
      · exact absurd ha (hne a)
  · simp only [memRead, memWrite, memTarget_uninitialized addr n hl, and_self]

/-! ### The windows and their mapping (20_memory.md R50 to R66) -/

/-- Constraints (b), (c) and (e) of 00_scope.md R11, for either window. -/
theorem windowFits (c : Chip) (d : Domain) : c.params.WindowFits (c.params.physBase d) d.count := by
  obtain ⟨-, hmain, hwakeup, -⟩ := c.valid
  cases d with
  | main => exact hmain
  | wakeup => exact hwakeup

/-- Constraint (a) of 00_scope.md R11. -/
theorem pageSize_eq_two_pow (c : Chip) : ∃ k, c.params.pageSize = 2 ^ k := ⟨_, c.valid.1.symm⟩

/-- Two registers at one address are one register, since a byte address belongs to at most one. -/
theorem physAddr_injective (c : Chip) : Function.Injective (physAddr c) := by
  intro a b h
  have ha := (registerAt?_eq_some c (physAddr c a) a).2 ⟨le_rfl, by omega⟩
  have hb := (registerAt?_eq_some c (physAddr c a) b).2 ⟨by omega, by omega⟩
  exact Option.some.inj (ha.symm.trans hb)

/-- Settles O53. -/
theorem physicalAddressesDistinct : Obligations.PhysicalAddressesDistinct := by
  refine ⟨fun c addr h1 h2 => ?_, fun c _ _ h => physAddr_injective c h⟩
  have hdisj : c.params.physMain + 780 ≤ c.params.physWakeup ∨ c.params.physWakeup + 280 ≤ c.params.physMain :=
    windows_disjoint c
  omega

/-- Settles O54. -/
theorem registersInsideWindow : Obligations.RegistersInsideWindow := by
  intro c a
  obtain ⟨halign, htop, -⟩ := windowFits c a.dom
  obtain ⟨-, hend⟩ := physAddr_bounds c a
  refine ⟨rfl, ?_, ?_, hend.trans htop⟩
  · unfold physAddr
    omega
  · unfold mapLen
    omega

/-- The in-page offset is the remainder of the base by the page size. -/
theorem pageOffset_eq_mod (c : Chip) (d : Domain) : pageOffset c d = c.params.physBase d % c.params.pageSize := by
  obtain ⟨k, hk⟩ := pageSize_eq_two_pow c
  rw [pageOffset, pageMask, hk, Nat.and_two_pow_sub_one_eq_mod]

/-- Clearing the low `k` bits rounds down to a multiple of `2 ^ k`, also where `k` is past the width. -/
theorem toNat_and_not_two_pow_sub_one {w : Nat} (x : BitVec w) (k : Nat) :
    (x &&& ~~~BitVec.ofNat w (2 ^ k - 1)).toNat = x.toNat / 2 ^ k * 2 ^ k := by
  apply Nat.eq_of_testBit_eq
  intro i
  simp only [BitVec.testBit_toNat, BitVec.getLsbD_and, BitVec.getLsbD_not, BitVec.getLsbD_ofNat,
    Nat.testBit_two_pow_sub_one, Nat.testBit_mul_two_pow, Nat.testBit_div_two_pow]
  by_cases hki : k ≤ i
  · rw [Nat.sub_add_cancel hki]
    cases hx : x.getLsbD i with
    | false => simp
    | true => simp [hki, Nat.not_lt.2 hki, BitVec.lt_of_getLsbD hx]
  · simp +contextual [hki, Nat.lt_of_not_le hki]

/-- The target of the mapping is the base rounded down to a whole page, also where a page is larger than the address space. -/
theorem mapTarget_eq_div_mul (c : Chip) (d : Domain) :
    mapTarget c d = c.params.physBase d / c.params.pageSize * c.params.pageSize := by
  obtain ⟨k, hk⟩ := pageSize_eq_two_pow c
  obtain ⟨-, htop, -⟩ := windowFits c d
  have hcount : 0 < d.count := by cases d <;> decide
  have hbase : (BitVec.ofNat c.params.addrW (c.params.physBase d)).toNat = c.params.physBase d :=
    Nat.mod_eq_of_lt (by omega)
  rw [mapTarget, pageMask, hk, toNat_and_not_two_pow_sub_one, hbase]

/-- Settles O55. -/
theorem targetPlusOffsetIsBase : Obligations.TargetPlusOffsetIsBase := by
  intro c d
  rw [mapTarget_eq_div_mul, pageOffset_eq_mod]
  exact ⟨Nat.div_add_mod' _ _, Nat.mul_mod_left _ _⟩

/-- The mapped address of a register translates to its physical address: the span covers offset and window (R11 (e)). -/
theorem translateMapped_mappedAddr (c : Chip) (a : PinAddr) (base : Nat) :
    translateMapped c a.dom base (mappedAddr (base + pageOffset c a.dom) a) = some (physAddr c a) := by
  obtain ⟨-, -, hspan⟩ := windowFits c a.dom
  have hspan : pageOffset c a.dom + 4 * a.dom.count ≤ mapSpan c a.dom := by
    rw [mapSpan, mapLen, Nat.mul_comm a.dom.count 4]
    exact hspan
  have hidx := a.idx.isLt
  obtain ⟨hsum, -⟩ := targetPlusOffsetIsBase c a.dom
  unfold translateMapped mappedAddr physAddr
  rw [if_pos (by omega)]
  congr 1
  omega

/-- Settles O56: with the true bases, the physical addresses are the ones at which the registers really are (log 18). -/
theorem mappingReachesEveryRegister : Obligations.MappingReachesEveryRegister := by
  intro c a base
  have htrans := translateMapped_mappedAddr c a base
  refine ⟨htrans, fun hbases => ?_⟩
  rw [htrans, physAddr, physAddr, hbases]

/-! ### The byte view (20_memory.md R60) -/

theorem byteOf_eq_shift (v : Word) (k : Nat) : byteOf v k = (v >>> (8 * k)).setWidth 8 := by
  ext j hj
  simp [byteOf]

/-- Byte `k` of a register stands at its physical address plus `k`. -/
theorem readByte?_physAddr_add (c : Chip) (P : Pads) (a : PinAddr) {k : Nat} (hk : k < 4) :
    readByte? c P (physAddr c a + k) = some ((readPad P a >>> (8 * k)).setWidth 8) := by
  have ha := (registerAt?_eq_some c (physAddr c a + k) a).2 ⟨by omega, by omega⟩
  simp [readByte?, ha, byteOf_eq_shift]

/-- Settles O57. -/
theorem byteOrder : Obligations.ByteOrder := by
  intro c P a
  refine ⟨?_, ?_, ?_, ?_⟩
  · simpa using readByte?_physAddr_add c P a (k := 0) (by decide)
  · exact readByte?_physAddr_add c P a (k := 1) (by decide)
  · exact readByte?_physAddr_add c P a (k := 2) (by decide)
  · exact readByte?_physAddr_add c P a (k := 3) (by decide)

end Sys2Proof.Machine

/-! SUPPORT. The encoding family: command words as numbers, the decoder against the encoder, what a step does with the
decoded command, and how many responses it gives. -/

namespace Sys2Proof

/-! ### Instructions and their rows of the opcode map (30_encoding.md R87, R88) -/

/-- Every instruction's encoding is accepted by the instruction's own row. -/
theorem encode_matchesRow : ∀ i : Instr, Laws.MatchesRow.Statement i
  | .init => Laws.MatchesRow.init
  | .deinit => Laws.MatchesRow.deinit
  | .selectFunction dom pin fn => Laws.MatchesRow.selectFunction dom pin fn
  | .selectInput dom pin => Laws.MatchesRow.selectInput dom pin
  | .selectOutput dom pin => Laws.MatchesRow.selectOutput dom pin
  | .selectInout dom pin => Laws.MatchesRow.selectInout dom pin
  | .selectHiz dom pin => Laws.MatchesRow.selectHiz dom pin
  | .selectPullUp dom pin => Laws.MatchesRow.selectPullUp dom pin
  | .selectPullDown dom pin => Laws.MatchesRow.selectPullDown dom pin
  | .selectPullDisable dom pin => Laws.MatchesRow.selectPullDisable dom pin
  | .getRaw dom pin => Laws.MatchesRow.getRaw dom pin
  | .setRaw dom pin value => Laws.MatchesRow.setRaw dom pin value
  | .dump dom pin => Laws.MatchesRow.dump dom pin

/-- The operands read from an encoding are the operands encoded. -/
theorem operandsOf_encode (i : Instr) : operandsOf (opOf i) (encode i) = i := by
  cases i <;> simp [opOf, encode, operandsOf]

/-- Settles O5: the row that accepts the encoding is the instruction's own, and its fields hold the operands. -/
theorem decodeEncodeRoundTrip : Obligations.DecodeEncodeRoundTrip := by
  intro i
  obtain ⟨r, hr, hop, hacc⟩ := encode_matchesRow i
  rw [decode_of_accepts (encode i) r hr (beq_iff_eq.1 hacc), hop, operandsOf_encode]

/-! ### The operand fields as shifts -/

theorem fieldFn_eq_shift (w : Word) : fieldFn w = (w >>> 24).setWidth 4 := by
  ext j hj
  simp [fieldFn]

theorem fieldDom_eq_shift (w : Word) : fieldDom w = (w >>> 16).setWidth 8 := by
  ext j hj
  simp [fieldDom]

theorem fieldPin_eq_setWidth (w : Word) : fieldPin w = w.setWidth 16 := by
  ext j hj
  simp [fieldPin]

/-- Settles O3: each clause names its row of the map; the operands are the fields of R81. -/
theorem opcodeMap : Obligations.OpcodeMap := by
  intro w wd
  dsimp only
  rw [← fieldDom_eq_shift, ← fieldPin_eq_setWidth, ← fieldFn_eq_shift]
  have row (r : Row) (hr : r ∈ opcodeRows) (h : w &&& r.mask = r.pattern) :
      decode ⟨w, wd⟩ = .ok (operandsOf r.op ⟨w, wd⟩) := decode_of_accepts ⟨w, wd⟩ r hr h
  exact ⟨row ⟨.init, _, _⟩ (by decide), row ⟨.deinit, _, _⟩ (by decide), row ⟨.selectFunction, _, _⟩ (by decide),
    row ⟨.selectInput, _, _⟩ (by decide), row ⟨.selectOutput, _, _⟩ (by decide), row ⟨.selectInout, _, _⟩ (by decide),
    row ⟨.selectHiz, _, _⟩ (by decide), row ⟨.selectPullUp, _, _⟩ (by decide), row ⟨.selectPullDown, _, _⟩ (by decide),
    row ⟨.selectPullDisable, _, _⟩ (by decide), row ⟨.getRaw, _, _⟩ (by decide), row ⟨.setRaw, _, _⟩ (by decide),
    row ⟨.dump, _, _⟩ (by decide), fun hnone => ⟨_, decode_eq_error ⟨w, wd⟩ hnone⟩⟩

/-! ### Legal words as numbers (30_encoding.md R94) -/

theorem toNat_fieldOp (w : Word) : (fieldOp w).toNat = w.toNat / 2 ^ 28 := by
  have := w.isLt
  simp only [fieldOp, BitVec.extractLsb'_toNat, Nat.shiftRight_eq_div_pow]
  omega

theorem toNat_fieldFn (w : Word) : (fieldFn w).toNat = w.toNat / 2 ^ 24 % 16 := by
  simp only [fieldFn, BitVec.extractLsb'_toNat, Nat.shiftRight_eq_div_pow]

/-- The legal words as numbers: the complement of the three cases of 30_encoding.md R94. -/
def LegalWord (w : Word) : Prop :=
  ((w.toNat / 2 ^ 28 = 1 ∨ w.toNat / 2 ^ 28 = 2) ∧ w.toNat % 2 ^ 28 = 0) ∨ w.toNat / 2 ^ 28 = 3 ∨
    (4 ≤ w.toNat / 2 ^ 28 ∧ w.toNat / 2 ^ 28 ≤ 13 ∧ w.toNat / 2 ^ 24 % 16 = 0)

theorem and_maskOp_eq_iff_toNat (w : Word) {pattern : Word}
    (hp : pattern = commandWord (fieldOp pattern) 0#4 0#8 0#16) :
    w &&& 0xF0000000#32 = pattern ↔ w.toNat / 2 ^ 28 = pattern.toNat / 2 ^ 28 := by
  rw [← toNat_fieldOp, ← toNat_fieldOp, BitVec.toNat_inj, ← and_maskOp_eq, ← hp]

theorem and_maskOpFn_eq_iff_toNat (w : Word) {pattern : Word}
    (hp : pattern = commandWord (fieldOp pattern) 0#4 0#8 0#16) :
    w &&& 0xFF000000#32 = pattern ↔ w.toNat / 2 ^ 28 = pattern.toNat / 2 ^ 28 ∧ w.toNat / 2 ^ 24 % 16 = 0 := by
  have hz : w.toNat / 2 ^ 24 % 16 = 0 ↔ fieldFn w = 0#4 := by
    rw [← toNat_fieldFn, ← BitVec.toNat_inj]
    rfl
  rw [← toNat_fieldOp, ← toNat_fieldOp, BitVec.toNat_inj, hz, ← and_maskOpFn_eq, ← hp]

theorem and_allOnes_eq_iff_toNat (w pattern : Word) :
    w &&& 0xFFFFFFFF#32 = pattern ↔ w.toNat = pattern.toNat := by
  have hm : 0xFFFFFFFF#32 = BitVec.allOnes 32 := by decide
  rw [hm, BitVec.and_allOnes, ← BitVec.toNat_inj]

/-- Some row of the map accepts a word exactly if it is legal. -/
theorem exists_row_iff_legalWord (w : Word) :
    (∃ r ∈ opcodeRows, w &&& r.mask = r.pattern) ↔ LegalWord w := by
  simp (disch := decide) only [opcodeRows, List.cons_append, List.nil_append, List.mem_cons, List.not_mem_nil, or_false,
    exists_eq_or_imp, exists_eq_left, and_allOnes_eq_iff_toNat, and_maskOp_eq_iff_toNat, and_maskOpFn_eq_iff_toNat,
    BitVec.toNat_ofNat, LegalWord]
  omega

/-- A command is rejected exactly if no row accepts its word. -/
theorem exists_decode_error_iff (c : Command) : (∃ e, decode c = .error e) ↔ ¬ LegalWord c.cmd := by
  rw [← exists_row_iff_legalWord]
  constructor
  · rintro ⟨e, he⟩ ⟨r, hr, ha⟩
    rw [decode_of_accepts c r hr ha] at he
    cases he
  · intro hnone
    exact ⟨_, decode_eq_error c fun r hr ha => hnone ⟨r, hr, ha⟩⟩

theorem opNumber_eq (c : Command) : c.opNumber = c.cmd.toNat / 2 ^ 28 := by
  simp only [Command.opNumber, BitVec.toNat_ushiftRight, Nat.shiftRight_eq_div_pow]

theorem functionBits_eq_zero_iff (w : Word) : (w >>> 24) &&& 0xF#32 = 0#32 ↔ w.toNat / 2 ^ 24 % 16 = 0 := by
  rw [← BitVec.toNat_inj, BitVec.toNat_and, BitVec.toNat_ushiftRight, Nat.shiftRight_eq_div_pow]
  exact Eq.congr_left (Nat.and_two_pow_sub_one_eq_mod _ 4)

theorem shiftLeft_four_eq_zero_iff (w : Word) : w <<< 4 = 0#32 ↔ w.toNat % 2 ^ 28 = 0 := by
  rw [← BitVec.toNat_inj, BitVec.toNat_shiftLeft, Nat.shiftLeft_eq, BitVec.toNat_ofNat]
  omega

/-- The well-formedness check accepts exactly the legal words. -/
theorem wellFormed_iff_legalWord (c : Command) : c.wellFormed = true ↔ LegalWord c.cmd := by
  have := c.cmd.isLt
  simp only [Command.wellFormed, Command.opAssigned, Command.functionFieldLegal, Command.lifecycleBitsLegal,
    opNumber_eq, Bool.and_eq_true, Bool.or_eq_true, Bool.not_eq_true', Bool.or_eq_false_iff, Bool.and_eq_false_iff,
    beq_iff_eq, beq_eq_false_iff_ne, decide_eq_false_iff_not, functionBits_eq_zero_iff, shiftLeft_four_eq_zero_iff,
    LegalWord]
  omega

/-! ### Encoding what was decoded (30_encoding.md R81, R87) -/

theorem commandWord_eq_of_maskOp {w pattern : Word} (op : BitVec 4) (hp : commandWord op 0#4 0#8 0#16 = pattern)
    (h : w &&& 0xF0000000#32 = pattern) : commandWord op (fieldFn w) (fieldDom w) (fieldPin w) = w := by
  rw [← hp, and_maskOp_eq] at h
  rw [← h, commandWord_fields]

theorem commandWord_eq_of_maskOpFn {w pattern : Word} (op : BitVec 4) (hp : commandWord op 0#4 0#8 0#16 = pattern)
    (h : w &&& 0xFF000000#32 = pattern) : commandWord op 0#4 (fieldDom w) (fieldPin w) = w := by
  rw [← hp, and_maskOpFn_eq] at h
  obtain ⟨hop, hfn⟩ := h
  rw [← hop, ← hfn, commandWord_fields]

/-- The operands a row reads carry every bit the row's mask leaves open. -/
theorem encode_operandsOf_cmd (c : Command) (r : Row) (hr : r ∈ opcodeRows) (ha : c.cmd &&& r.mask = r.pattern) :
    (encode (operandsOf r.op c)).cmd = c.cmd := by
  simp only [opcodeRows, List.cons_append, List.nil_append, List.mem_cons, List.not_mem_nil, or_false] at hr
  rcases hr with rfl | rfl | rfl | rfl | rfl | rfl | rfl | rfl | rfl | rfl | rfl | rfl | rfl
  · exact (BitVec.toNat_inj.1 ((and_allOnes_eq_iff_toNat _ _).1 ha)).symm
  · exact (BitVec.toNat_inj.1 ((and_allOnes_eq_iff_toNat _ _).1 ha)).symm
  · exact commandWord_eq_of_maskOp _ (by decide) ha
  all_goals exact commandWord_eq_of_maskOpFn _ (by decide) ha

/-! ### SET_RAW and the write data (30_encoding.md R86) -/

theorem ushiftRight_28_eq_iff (w : Word) : w >>> 28 = 0xC#32 ↔ fieldOp w = 0xC#4 := by
  rw [← BitVec.toNat_inj, ← BitVec.toNat_inj, toNat_fieldOp, BitVec.toNat_ushiftRight, Nat.shiftRight_eq_div_pow]
  rfl

/-- Among the rows that accept a word, SET_RAW's is told by `OP`. -/
theorem op_eq_setRaw_iff {w : Word} {r : Row} (hr : r ∈ opcodeRows) (ha : w &&& r.mask = r.pattern) :
    r.op = .setRaw ↔ w >>> 28 = 0xC#32 := by
  have hrows : ∀ r ∈ opcodeRows, r.op = .setRaw ↔ fieldOp r.pattern = 0xC#4 := by decide
  rw [ushiftRight_28_eq_iff, fieldOp_of_accepts w r hr ha, hrows r hr]

/-- No operation but SET_RAW has an operand in the write data. -/
theorem operandsOf_wdata {op : Op} (hop : op ≠ .setRaw) (w d d' : Word) :
    operandsOf op ⟨w, d⟩ = operandsOf op ⟨w, d'⟩ := by
  cases op with
  | setRaw => exact absurd rfl hop
  | _ => rfl

theorem decode_wdata {w : Word} (hop : w >>> 28 ≠ 0xC#32) (d d' : Word) : decode ⟨w, d⟩ = decode ⟨w, d'⟩ := by
  by_cases h : ∃ r ∈ opcodeRows, w &&& r.mask = r.pattern
  · obtain ⟨r, hr, ha⟩ := h
    have hne : r.op ≠ .setRaw := fun he => hop ((op_eq_setRaw_iff hr ha).1 he)
    rw [decode_of_accepts ⟨w, d⟩ r hr ha, decode_of_accepts ⟨w, d'⟩ r hr ha, operandsOf_wdata hne]
  · have hnone : ∀ r ∈ opcodeRows, w &&& r.mask ≠ r.pattern := fun r hr ha => h ⟨r, hr, ha⟩
    rw [decode_eq_error ⟨w, d⟩ hnone, decode_eq_error ⟨w, d'⟩ hnone]

/-- Settles O6: the word is its row's fixed bits and the operands; only SET_RAW's row has `OP` 0xC. -/
theorem encodeDecodeRoundTrip : Obligations.EncodeDecodeRoundTrip := by
  intro c i h
  obtain ⟨r, hr, ha, rfl⟩ := decode_eq_ok c i h
  refine ⟨encode_operandsOf_cmd c r hr ha, fun hop => ?_⟩
  rw [(op_eq_setRaw_iff hr ha).2 hop]
  rfl

end Sys2Proof

namespace Sys2Proof.Machine

open Sys2Proof

/-! ### What a step does with the command presented (30_encoding.md R80, R93) -/

theorem step_of_decode_ok {s : State} {c : Command} {rest : List Command} {i : Instr} (hh : s.host = c :: rest)
    (hd : decode c = .ok i) : step s = exec i { s with host := rest } := by
  simp only [step, nextCommand, hh, hd]

theorem step_of_decode_error {s : State} {c : Command} {rest : List Command} {e : IllegalWord}
    (hh : s.host = c :: rest) (hd : decode c = .error e) : step s = .next (illegalCommand { s with host := rest }) := by
  simp only [step, nextCommand, hh, hd]

/-- Settles O9. -/
theorem stepRunsDecodedCommand : Obligations.StepRunsDecodedCommand :=
  fun _ _ _ _ hh hd => step_of_decode_ok hh hd

/-- Settles O4: the decoder and the check both accept exactly the legal words. -/
theorem illegalCommandWords : Obligations.IllegalCommandWords := by
  refine ⟨fun c => ?_, fun c => ?_, fun s c rest e hh hd => step_of_decode_error hh hd⟩
  · have := c.cmd.isLt
    rw [exists_decode_error_iff, LegalWord]
    omega
  · rw [exists_decode_error_iff, ← wellFormed_iff_legalWord, Bool.not_eq_true]

/-- Two commands that decode alike are run alike: a step looks at a command through the decoder only. -/
theorem step_congr_decode (s : State) {c c' : Command} (rest : List Command) (h : decode c = decode c') :
    step { s with host := c :: rest } = step { s with host := c' :: rest } := by
  simp only [step, nextCommand, h]

/-- Settles O7. -/
theorem writeDataIgnored : Obligations.WriteDataIgnored :=
  ⟨fun _ d d' hop => decode_wdata hop d d', fun s _ d d' rest hop => step_congr_decode s rest (decode_wdata hop d d'),
    fun dom pin v => decodeEncodeRoundTrip (.setRaw dom pin v)⟩

/-! ### One response per command (30_encoding.md R90 to R92) -/

/-- How an instruction answers: no command of the host consumed, one response `r` appended, data with OK from GET_RAW and
DUMP only, and `InvalidAddress` in strict mode only. -/
structure AnswersOnce (i : Instr) (s t : State) (r : Response) : Prop where
  host : t.host = s.host
  responses : t.responses = s.responses ++ [r]
  data : r.rdata.isSome = true → r.status = .ok ∧ ∃ dom pin, i = .getRaw dom pin ∨ i = .dump dom pin
  strict : s.cfg.strictDomain = false → r.status ≠ .raised .invalidAddress

/-- An answer that carries no data has only its status to account for. -/
theorem AnswersOnce.of_status {i : Instr} {s t : State} {st : Status} (hhost : t.host = s.host)
    (hresp : t.responses = s.responses ++ [⟨st, none⟩])
    (hst : s.cfg.strictDomain = false → st ≠ .raised .invalidAddress) : AnswersOnce i s t ⟨st, none⟩ where
  host := hhost
  responses := hresp
  data := by simp
  strict := hst

/-- Acquiring answers OK or `RESOURCE_ERROR`, without data (40_lifecycle.md R112). -/
theorem acquire_answers (e : EnvInputs) (s : State) :
    (acquire e s).host = s.host ∧ ∃ st, (acquire e s).responses = s.responses ++ [⟨st, none⟩] ∧
      (st = .ok ∨ st = .raised .resourceError) := by
  rcases acquire_cases e s with ⟨-, h⟩ | ⟨-, -, h⟩ | ⟨-, -, -, h⟩ | ⟨-, -, -, h⟩ <;> rw [h]
  case inr.inr.inr => exact ⟨rfl, _, rfl, .inl rfl⟩
  all_goals exact ⟨rfl, _, rfl, .inr rfl⟩

theorem exec_init_answersOnce (s : State) : ∃ t r, exec .init s = .next t ∧ AnswersOnce .init s t r := by
  rcases exec_init_by_life s with ⟨-, he⟩ | ⟨-, e, env, n, he⟩
  · exact ⟨_, _, he, .of_status rfl rfl (by simp)⟩
  · obtain ⟨hhost, st, hresp, hst⟩ := acquire_answers (atPorts s.cfg.chip e) { s with env := env, draws := n }
    refine ⟨_, _, he, .of_status hhost hresp fun _ => ?_⟩
    rcases hst with rfl | rfl <;> simp

theorem exec_pin_answersOnce {i : Instr} {dom : BitVec 8} {pin : BitVec 16} (h : i.pinOperands = some (dom, pin))
    (s : State) : ∃ t r, exec i s = .next t ∧ AnswersOnce i s t r := by
  obtain ⟨soft, body, hexec, hsoft, hbody⟩ := exec_pin_form i dom pin h
  rw [hexec s]
  rcases pinCommand_cases dom pin (respond ⟨.ok, soft⟩) body s with
    ⟨-, hs, he⟩ | ⟨-, -, he⟩ | ⟨-, -, he⟩ | ⟨_, -, -, -, he⟩ | ⟨a, -, -, he⟩ <;> rw [he]
  · exact ⟨_, _, rfl, .of_status rfl rfl (by simp [hs])⟩
  · refine ⟨_, _, rfl, rfl, rfl, fun hdata => ⟨rfl, dom, pin, ?_⟩, by simp⟩
    rcases hsoft with ⟨rfl, -⟩ | ⟨-, hi⟩
    · cases hdata
    · exact .inl hi
  · exact ⟨_, _, rfl, .of_status rfl rfl (by simp)⟩
  · exact ⟨_, _, rfl, .of_status rfl rfl (by simp)⟩
  · obtain ⟨d, hresp, hdata⟩ := (hbody a s).response
    obtain ⟨-, hhost, -, -⟩ := (hbody a s).inputs
    exact ⟨_, _, rfl, hhost, hresp, fun hd => ⟨rfl, dom, pin, hdata hd⟩, by simp⟩

/-- Every instruction completes with exactly one response. -/
theorem exec_answersOnce (i : Instr) (s : State) : ∃ t r, exec i s = .next t ∧ AnswersOnce i s t r := by
  rcases instr_cases i with rfl | rfl | ⟨dom, pin, hi⟩
  · exact exec_init_answersOnce s
  · exact ⟨_, _, exec_deinit s, .of_status rfl rfl (by simp)⟩
  · exact exec_pin_answersOnce hi s

theorem rvalid_eq_one_iff (r : Response) : rvalid r = 1#1 ↔ r.rdata.isSome = true := by
  unfold rvalid
  cases r.rdata.isSome <;> decide

/-- Settles O12: an illegal command is answered without data, a legal one as its instruction answers. -/
theorem oneResponsePerCommand : Obligations.OneResponsePerCommand := by
  intro s c rest hh
  cases hd : decode c with
  | error e => exact ⟨_, _, step_of_decode_error hh hd, rfl, rfl, fun hr => absurd hr (by decide)⟩
  | ok i =>
    obtain ⟨t, r, he, ha⟩ := exec_answersOnce i { s with host := rest }
    refine ⟨t, r, (step_of_decode_ok hh hd).trans he, ha.host, ha.responses, fun hr => ?_⟩
    obtain ⟨hok, dom, pin, hi⟩ := ha.data ((rvalid_eq_one_iff r).1 hr)
    exact ⟨by rw [hok]; rfl, dom, pin, by simpa using hi⟩

/-- `INVALID_ADDRESS` is the only status with code 2. -/
theorem statusCode_eq_two {st : Status} (h : statusCode st = 0x2#4) : st = .raised .invalidAddress := by
  rcases st with _ | _ | _ | _ | _ | _ | _
  case raised.invalidAddress => rfl
  all_goals exact absurd h (by decide)

theorem statusCode_lt_seven (st : Status) : (statusCode st).toNat < 7 := by
  rcases st with _ | _ | _ | _ | _ | _ | _ <;> decide

/-- Without strict mode no step answers `InvalidAddress`. -/
theorem step_response_status {s t : State} (h : step s = .next t) (hstrict : s.cfg.strictDomain = false) :
    t.responses = s.responses ∨
      ∃ r, t.responses = s.responses ++ [r] ∧ r.status ≠ .raised .invalidAddress := by
  rcases step_cases s with ⟨-, hs⟩ | ⟨c, rest, e, -, -, hs⟩ | ⟨c, rest, i, -, -, hs⟩ <;> rw [hs] at h
  · cases h
    exact .inl rfl
  · cases h
    exact .inr ⟨_, rfl, by simp⟩
  · obtain ⟨u, r, he, ha⟩ := exec_answersOnce i { s with host := rest }
    rw [he] at h
    cases h
    exact .inr ⟨r, ha.responses, ha.strict hstrict⟩

/-- Settles O18. -/
theorem statusCodes : Obligations.StatusCodes := by
  refine ⟨rfl, rfl, rfl, rfl, rfl, rfl, rfl, statusCode_lt_seven, fun s t h hstrict => ?_⟩
  refine (step_response_status h hstrict).imp_right ?_
  rintro ⟨r, hresp, hst⟩
  exact ⟨r, hresp, fun hcode => hst (statusCode_eq_two hcode)⟩

/-! ### INIT without a scripted answer (30_encoding.md R100, R101) -/

/-- The same state with other inputs of the environment still to come. -/
def withEnv (env : List EnvInputs) (draws : Nat) (s : State) : State := { s with env := env, draws := draws }

/-- Acquiring reads and writes neither the script nor the counter of draws. -/
theorem acquire_withEnv (e : EnvInputs) (env : List EnvInputs) (draws : Nat) (s : State) :
    acquire e (withEnv env draws s) = withEnv env draws (acquire e s) := by
  unfold acquire
  cases e.devOk with
  | false => rfl
  | true =>
    simp only [mapWindows, if_true]
    cases mapOk e .main with
    | false => rfl
    | true => cases mapOk e .wakeup <;> rfl

/-- From Uninitialized with nothing scripted, INIT acquires with the next draw and advances the counter. -/
theorem exec_init_drawn {s : State} (hl : s.life = .uninitialized) (henv : s.env = []) :
    exec .init s = .next (acquire (atPorts s.cfg.chip (drawnEnv s.draws)) (withEnv [] (s.draws + 1) s)) := by
  simp only [exec, execInit, hl, sampleEnv, henv, withEnv]

/-- Settles O20: scripted or drawn, the answer goes to the same acquiring, which leaves script and counter alone. -/
theorem initDrawsAfresh : Obligations.InitDrawsAfresh := by
  intro s hl henv
  have hscripted := exec_init_scripted (s := { s with env := [drawnEnv s.draws] }) hl rfl
  have hdrawn := exec_init_drawn hl henv
  rw [acquire_withEnv] at hdrawn
  exact ⟨_, hdrawn, rfl, rfl, hscripted.trans (congrArg _ (acquire_withEnv _ [] s.draws s))⟩

end Sys2Proof.Machine

/-! SUPPORT. The lifecycle family: the words of INIT and DEINIT, INIT denied and granted from the reset control state, DEINIT
with something and with nothing held, and the resource account of a step. -/

namespace Sys2Proof.Machine

open Sys2Proof

/-! ### The command words (40_lifecycle.md R111, R114) -/

/-- INIT and DEINIT leave no bit of their word open, and no operand in the write data: each is exactly one word. -/
theorem decode_eq_lifecycle_iff {i : Instr} (hi : i = .init ∨ i = .deinit) (c : Command) :
    decode c = .ok i ↔ c.cmd = (encode i).cmd := by
  constructor
  · intro h
    exact (encodeDecodeRoundTrip c i h).1.symm
  · intro h
    obtain ⟨r, hr, hop, hacc⟩ := encode_matchesRow i
    rw [← h] at hacc
    rw [decode_of_accepts c r hr (beq_iff_eq.1 hacc), hop]
    rcases hi with rfl | rfl <;> rfl

theorem controlReset.life_eq {s : State} (h : controlReset s) : s.life = .uninitialized := h.1

/-! ### INIT denied (40_lifecycle.md R111, R113) -/

/-- The events of an INIT that is denied with nothing held before it: what was acquired up to the denial, then its release in
one event. -/
def deniedTrace (e : EnvInputs) : List ResourceEvent :=
  match e.devOk, e.mapOkMain with
  | false, _ => [.released ⟨false, false, false⟩]
  | true, false => [.opened, .released ⟨true, false, false⟩]
  | true, true => [.opened, .mapped .main, .released ⟨true, true, false⟩]

/-- With nothing held before it, a denied acquiring answers `RESOURCE_ERROR` and leaves its events and nothing else. -/
theorem acquire_denied {e : EnvInputs} (hdeny : (e.devOk && e.mapOkMain && e.mapOkWakeup) = false) {s : State}
    (hs : controlReset s) : acquire e s =
      answered { s with resource := s.resource ++ deniedTrace e } ⟨.raised .resourceError, none⟩ := by
  obtain ⟨hl, hopen, hmain, hwakeup⟩ := hs
  rcases acquire_cases e s with ⟨hd, h⟩ | ⟨hd, hm, h⟩ | ⟨hd, hm, hw, h⟩ | ⟨hd, hm, hw, -⟩
  case inr.inr.inr => simp [hd, hm, hw] at hdeny
  all_goals simp [answered, deniedTrace, Window.none, *]

/-- INIT from the reset control state with a scripted denial: the answer is consumed, and the fault answered. -/
theorem exec_init_denied {s : State} {e : EnvInputs} {rest : List EnvInputs} (hs : controlReset s)
    (he : s.env = e :: rest) (hdeny : (e.devOk && e.mapOkMain && e.mapOkWakeup) = false) :
    exec .init s = .next (answered { s with env := rest, resource := s.resource ++ deniedTrace e }
      ⟨.raised .resourceError, none⟩) := by
  rw [exec_init_scripted hs.life_eq he, acquire_denied (e := atPorts s.cfg.chip e) hdeny (s := { s with env := rest }) hs]
  rfl

/-! ### INIT granted (40_lifecycle.md R111, R112) -/

/-- `REG_BASE` is the stated sum where that is an `ADDR_W`-bit address (20_memory.md R64, R75). -/
theorem regBaseOf_of_lt {c : Chip} {d : Domain} {base : Nat} (h : base + pageOffset c d < 2 ^ c.params.addrW) :
    regBaseOf c d base = base + pageOffset c d := if_pos h

/-- INIT with a scripted grant: everything held, whatever the bases are, and OK answered. -/
theorem exec_init_granted {s : State} {e : EnvInputs} {rest : List EnvInputs} (hl : s.life = .uninitialized)
    (he : s.env = e :: rest) (hd : e.devOk = true) (hm : e.mapOkMain = true) (hw : e.mapOkWakeup = true) :
    ∃ t, exec .init s = .next t ∧ controlHeld t ∧ t.responses = s.responses ++ [⟨.ok, none⟩] := by
  refine ⟨_, exec_init_scripted hl he, ?_⟩
  rw [acquire_granted (e := atPorts s.cfg.chip e) hd hm hw]
  exact ⟨⟨rfl, rfl, ⟨rfl, _, toAddrWidth_lt _ _, rfl, rfl⟩, rfl, _, toAddrWidth_lt _ _, rfl, rfl⟩, rfl⟩

/-- Settles O19: the denied rows are one lemma read at each denial; in the granted row bases and sums fit the ports. -/
theorem initMeaning : Obligations.InitMeaning := by
  refine ⟨decode_eq_lifecycle_iff (.inl rfl), fun s hl => ?_, fun s e rest hs he => ⟨fun hd => ?_, fun hd hm => ?_,
    fun hd hm hw => ?_, fun hd hm hw hbm hbw hsm hsw => ?_⟩⟩
  · rcases exec_init_by_life s with ⟨-, h⟩ | ⟨hl', -⟩
    · exact h
    · rw [hl] at hl'
      cases hl'
  · simpa only [deniedTrace, hd] using exec_init_denied hs he (by simp [hd])
  · simpa only [deniedTrace, hd, hm] using exec_init_denied hs he (by simp [hm])
  · simpa only [deniedTrace, hd, hm] using exec_init_denied hs he (by simp [hw])
  · have hmain := regBaseOf_of_lt (c := s.cfg.chip) (d := .main) hsm
    have hwakeup := regBaseOf_of_lt (c := s.cfg.chip) (d := .wakeup) hsw
    rw [exec_init_scripted hs.life_eq he, atPorts_of_lt hbm hbw, acquire_granted hd hm hw, hmain, hwakeup]
    rfl

/-- Settles O25: a denied INIT changes nothing of the control state, so the next one runs as a first INIT. -/
theorem failedInitCanBeRetried : Obligations.FailedInitCanBeRetried := by
  intro s e e' rest hs he hdeny hd hm hw
  obtain ⟨u, hu, hheld, hresp⟩ := exec_init_granted
    (s := answered { s with env := e' :: rest, resource := s.resource ++ deniedTrace e } ⟨.raised .resourceError, none⟩)
    hs.life_eq rfl hd hm hw
  exact ⟨_, u, exec_init_denied hs he hdeny, hs, rfl, rfl, hu, hheld, hresp⟩

/-! ### DEINIT (40_lifecycle.md R113, R114) -/

/-- Tearing down leaves the reset control state, whatever was held. -/
theorem controlReset_teardown (s : State) : controlReset (teardown s) := ⟨rfl, rfl, rfl, rfl⟩

/-- With nothing held, tearing down releases the empty set and changes nothing. -/
theorem teardown_of_controlReset {s : State} (hs : controlReset s) :
    teardown s = { s with resource := s.resource ++ [.released ⟨false, false, false⟩] } := by
  obtain ⟨hl, hopen, hmain, hwakeup⟩ := hs
  simp [teardown_eq, Window.none, *]

/-- Settles O22: the second DEINIT runs in the reset control state the first one left. -/
theorem deinitMeaning : Obligations.DeinitMeaning := by
  refine ⟨decode_eq_lifecycle_iff (.inr rfl), fun s => ?_, fun s => ⟨_, exec_deinit s, ?_⟩⟩
  · rw [exec_deinit, teardown_eq]
    rfl
  · have hreset : controlReset (respondOk (teardown s)) := controlReset_teardown s
    rw [exec_deinit, teardown_of_controlReset hreset]
    rfl

/-! ### The resource account (40_lifecycle.md R117) -/

/-- Settles O60: pin commands, illegal words and refused INITs append no event, an INIT and a DEINIT events that account. -/
theorem resourceAccount : Obligations.ResourceAccount := fun _ _ hs h => step_accounts hs h

end Sys2Proof.Machine

/-! SUPPORT. The function-select family: what every pin command answers to a failing check, what a command of one cycle does,
SELECT_FUNCTION made of the two, and selections issued twice. -/

namespace Sys2Proof

/-! ### Command words (30_encoding.md R81, R86) -/

/-- The write data beside an encoded command is ignored, SET_RAW's alone excepted. -/
theorem decode_encode_cmd {i : Instr} (hop : opOf i ≠ .setRaw) (wd : Word) : decode ⟨(encode i).cmd, wd⟩ = .ok i := by
  obtain ⟨r, hr, hrow, hacc⟩ := encode_matchesRow i
  rw [decode_of_accepts ⟨(encode i).cmd, wd⟩ r hr (beq_iff_eq.1 hacc), hrow]
  exact congrArg _ ((operandsOf_wdata hop _ wd (encode i).wdata).trans (operandsOf_encode i))

/-- Settles O8: each pair of words is the encoding of the operation named. -/
theorem workedWordsDecode : Obligations.WorkedWordsDecode :=
  ⟨decodeEncodeRoundTrip (.selectFunction 0#8 194#16 7#4), decodeEncodeRoundTrip (.selectInout 1#8 0#16),
    decodeEncodeRoundTrip (.selectPullDown 1#8 69#16), decodeEncodeRoundTrip (.setRaw 1#8 0#16 0xDEADBEEF#32),
    decodeEncodeRoundTrip (.dump 0#8 195#16)⟩

end Sys2Proof

namespace Sys2Proof.Machine

open Sys2Proof

/-! ### Failing checks (30_encoding.md R93) -/

/-- A pin command that fails a check answers as the check says, and `soft` to an invalid domain in the default mode. -/
theorem answersFailedChecks_of_pinCommand {i : Instr} {dom : BitVec 8} {pin : BitVec 16} {soft : Option Word}
    {body : PinAddr → State → State}
    (hexec : ∀ s, exec i s = .next (pinCommand dom pin (respond ⟨.ok, soft⟩) body s)) :
    answersFailedChecks i dom pin soft := by
  intro s
  rw [hexec s]
  refine ⟨fun hdom hs => ?_, fun hdom hs => ?_, fun hdom hl => ?_, fun d hdom hl hpin => ?_⟩
  · simp only [pinCommand, (checks_eq_invalidDomain dom pin s).2 hdom, hs]
    rfl
  · simp only [pinCommand, (checks_eq_invalidDomain dom pin s).2 hdom, hs]
    rfl
  · simp only [pinCommand, (checks_eq_notInitialized dom pin s).2 ⟨hdom, hl⟩]
    rfl
  · simp only [pinCommand, (checks_eq_outOfRange dom pin s).2 ⟨hl, d, hdom, hpin⟩]
    rfl

/-! ### Passed checks, and one cycle (20_memory.md R58) -/

theorem mutate_of_addresses {dom : BitVec 8} {pin : BitVec 16} {a : PinAddr} {s : State} (ha : addresses dom pin a)
    (hl : s.life = .initialized) (accesses : PinAddr → State → State) :
    mutate dom pin accesses s = respondOk (accesses a s) := by
  simp only [mutate, pinCommand, (checks_eq_passed dom pin s a).2 ⟨hl, ha⟩]

/-- A command of one cycle on a valid address writes the field update of the word it reads. -/
theorem mutate_rmw_of_addresses {dom : BitVec 8} {pin : BitVec 16} {a : PinAddr} {s : State} (ha : addresses dom pin a)
    (hl : s.life = .initialized) (mask val : Word) :
    mutate dom pin (fun b => rmw b mask val) s = afterCycle s a (fieldUpdate (readPad s.pads a) mask val) := by
  rw [mutate_of_addresses ha hl, rmw_eq]
  rfl

theorem readPad_afterCycle (s : State) (a : PinAddr) (w : Word) : readPad (afterCycle s a w).pads a = w :=
  readPad_writePad_same s.pads a w

/-- A cycle that writes the word it read leaves every register. -/
theorem afterCycle_readPad_pads (s : State) (a : PinAddr) :
    (afterCycle s a (readPad s.pads a)).pads = s.pads :=
  writePad_readPad s.pads a

/-! ### SELECT_FUNCTION (41_function_select.md R125, R126) -/

/-- A function code lies inside the mux-mode field. -/
theorem setWidth_and_maskMux : ∀ fn : BitVec 4, fn.setWidth 32 &&& maskMux = fn.setWidth 32 := by decide

/-- The update of the mux-mode field, as 41_function_select.md R125 writes it. -/
theorem fieldUpdate_maskMux (t : Word) (fn : BitVec 4) :
    fieldUpdate t maskMux (fn.setWidth 32) = (t &&& 0xFFFFFFF0#32) ||| fn.setWidth 32 := by
  rw [fieldUpdate, setWidth_and_maskMux]
  rfl

/-- The mux-mode field of the updated word is the function code. -/
theorem setWidth_fieldUpdate_maskMux (t : Word) (fn : BitVec 4) :
    (fieldUpdate t maskMux (fn.setWidth 32)).setWidth 4 = fn := by
  simp [fieldUpdate_maskMux]

theorem exec_selectFunction_of_addresses {dom : BitVec 8} {pin : BitVec 16} {a : PinAddr} {s : State}
    (ha : addresses dom pin a) (hl : s.life = .initialized) (fn : BitVec 4) :
    exec (.selectFunction dom pin fn) s =
      .next (afterCycle s a (fieldUpdate (readPad s.pads a) maskMux (fn.setWidth 32))) :=
  congrArg _ (mutate_rmw_of_addresses ha hl maskMux (fn.setWidth 32))

/-- Settles O26: the word is the operation's encoding, and the command is one cycle on the mux-mode field. -/
theorem selectFunctionMeaning : Obligations.SelectFunctionMeaning := by
  refine ⟨fun dom pin fn wd => ?_, fun dom pin fn => ?_, fun s dom pin fn a ha hl => ?_⟩
  · exact decode_encode_cmd (i := .selectFunction dom pin fn) (by simp [opOf]) wd
  · exact answersFailedChecks_of_pinCommand fun _ => rfl
  · rw [exec_selectFunction_of_addresses ha hl, fieldUpdate_maskMux]

/-- Settles O27: the second cycle reads the word the first one wrote, and updating its field again gives the same word. -/
theorem selectFunctionField : Obligations.SelectFunctionField := by
  intro s dom pin fn a ha hl
  let t := afterCycle s a (fieldUpdate (readPad s.pads a) maskMux (fn.setWidth 32))
  have hread : readPad t.pads a = fieldUpdate (readPad s.pads a) maskMux (fn.setWidth 32) := readPad_afterCycle s a _
  have hsame : fieldUpdate (readPad t.pads a) maskMux (fn.setWidth 32) = readPad t.pads a := by
    rw [hread, fieldUpdate_idem]
  have hsecond : exec (.selectFunction dom pin fn) t = .next (afterCycle t a (readPad t.pads a)) := by
    rw [exec_selectFunction_of_addresses ha (s := t) hl, hsame]
  refine ⟨t, _, exec_selectFunction_of_addresses ha hl fn, ?_, ?_, hsecond, afterCycle_readPad_pads t a, rfl⟩
  · rw [hread, setWidth_fieldUpdate_maskMux]
  · rw [hread]
    exact fieldUpdate_and_not_mask _ maskMux _

/-! ### Selections issued twice (41_function_select.md R126, 42_direction.md R135, 43_pull.md R144) -/

theorem exists_pinOperands_of_isSelect {i : Instr} (h : isSelect i = true) :
    ∃ dom pin, i.pinOperands = some (dom, pin) := by
  rcases instr_cases i with rfl | rfl | hops
  · cases h
  · cases h
  · exact hops

/-- Updating the field once more changes no register: the checks end as before, and the field already holds the value. -/
theorem padsUpdated_again {dom : BitVec 8} {pin : BitVec 16} {mask val : Word} {s t : State} (hl : t.life = s.life)
    (hp : t.pads = padsUpdated dom pin mask val s) : padsUpdated dom pin mask val t = t.pads := by
  have hc : checks dom pin t = checks dom pin s := checks_congr dom pin hl
  by_cases h : ∃ a, checks dom pin s = .passed a
  · obtain ⟨a, ha⟩ := h
    rw [padsUpdated_of_passed ha] at hp
    rw [padsUpdated_of_passed (hc.trans ha), hp, readPad_writePad_same, fieldUpdate_idem, writePad_writePad]
  · exact padsUpdated_of_failed (hc ▸ not_exists.1 h) mask val

/-- A command that updates one field, issued twice, leaves the pads as the first issue left them. -/
theorem UpdatesField.idempotent {i : Instr} {dom : BitVec 8} {pin : BitVec 16} {mask : Word}
    (hi : UpdatesField i dom pin mask) (s : State) :
    ∃ t u, exec i s = .next t ∧ exec i t = .next u ∧ u.pads = t.pads := by
  obtain ⟨val, hi⟩ := hi
  obtain ⟨t, ht, htl, htp⟩ := hi s
  obtain ⟨u, hu, -, hup⟩ := hi t
  exact ⟨t, u, ht, hu, hup.trans (padsUpdated_again htl htp)⟩

/-- Settles O37: each of the eight is an update of its own fields. -/
theorem selectIdempotent : Obligations.SelectIdempotent := by
  intro i s hsel
  obtain ⟨dom, pin, hops⟩ := exists_pinOperands_of_isSelect hsel
  exact (exec_select_updatesField hsel hops).idempotent s

end Sys2Proof.Machine

/-! SUPPORT. The direction family: command words whose function field must be zero, the commands of two cycles, the four
direction operations as such commands, and what they leave in the direction bits. -/

namespace Sys2Proof.Machine

open Sys2Proof

/-! ### A function field that must be zero (30_encoding.md R94) -/

/-- From operation code 4 on, no row of the map accepts a word whose function field is not zero. -/
theorem rejectsFunctionField_of_four_le {op : BitVec 4} (hop : 4 ≤ op.toNat) : rejectsFunctionField op := by
  intro fn dom pin wd hfn
  change ∃ e, decode ⟨commandWord op fn dom pin, wd⟩ = .error e
  have hfn' : fn.toNat ≠ 0 := fun h => hfn (BitVec.eq_of_toNat_eq h)
  rw [exists_decode_error_iff, LegalWord, ← toNat_fieldOp, ← toNat_fieldFn, fieldOp_commandWord, fieldFn_commandWord]
  omega

/-! ### Commands of two cycles (42_direction.md R130, 43_pull.md R140) -/

/-- A command of two cycles on a valid address writes the field updates one after the other. -/
theorem mutate_rmwTwice_of_addresses {dom : BitVec 8} {pin : BitVec 16} {a : PinAddr} {s : State}
    (ha : addresses dom pin a) (hl : s.life = .initialized) (m1 v1 m2 v2 : Word) :
    mutate dom pin (rmwTwice m1 v1 m2 v2) s =
      afterTwoCycles s a (fieldUpdate (readPad s.pads a) m1 v1)
        (fieldUpdate (fieldUpdate (readPad s.pads a) m1 v1) m2 v2) := by
  rw [mutate_of_addresses ha hl, rmwTwice_eq]
  rfl

theorem readPad_afterTwoCycles (s : State) (a : PinAddr) (w1 w2 : Word) :
    readPad (afterTwoCycles s a w1 w2).pads a = w2 :=
  readPad_writePad_same s.pads a w2

/-- The whole meaning of a command of two cycles: its encoding with operation code `op`, its failing checks, and the words
`w1` and `w2` its cycles write, given the word the register held. -/
def TwoCycleMeaning (i : BitVec 8 → BitVec 16 → Instr) (op : BitVec 4) (w1 w2 : Word → Word) : Prop :=
  (∀ (dom : BitVec 8) (pin : BitVec 16) (wd : Word), decode ⟨op ++ 0x0#4 ++ dom ++ pin, wd⟩ = .ok (i dom pin)) ∧
  rejectsFunctionField op ∧
  (∀ dom pin, answersFailedChecks (i dom pin) dom pin none) ∧
  (∀ (s : State) (dom : BitVec 8) (pin : BitVec 16) (a : PinAddr), addresses dom pin a → s.life = .initialized →
    exec (i dom pin) s = .next (afterTwoCycles s a (w1 (readPad s.pads a)) (w2 (readPad s.pads a))))

/-- A command that is `rmwTwice` behind the checks has that meaning, with the field updates as its words. -/
theorem twoCycleMeaning_of_rmwTwice {i : BitVec 8 → BitVec 16 → Instr} {op : BitVec 4} {w1 w2 : Word → Word}
    {m1 v1 m2 v2 : Word} (hop : 4 ≤ op.toNat)
    (henc : ∀ dom pin, (encode (i dom pin)).cmd = commandWord op 0#4 dom pin)
    (hset : ∀ dom pin, opOf (i dom pin) ≠ .setRaw)
    (hexec : ∀ dom pin s, exec (i dom pin) s = .next (mutate dom pin (rmwTwice m1 v1 m2 v2) s))
    (hw1 : ∀ t, fieldUpdate t m1 v1 = w1 t) (hw2 : ∀ t, fieldUpdate (w1 t) m2 v2 = w2 t) :
    TwoCycleMeaning i op w1 w2 := by
  refine ⟨fun dom pin wd => ?_, rejectsFunctionField_of_four_le hop, fun dom pin => ?_, fun s dom pin a ha hl => ?_⟩
  · change decode ⟨commandWord op 0#4 dom pin, wd⟩ = _
    rw [← henc, decode_encode_cmd (hset dom pin)]
  · exact answersFailedChecks_of_pinCommand (hexec dom pin)
  · rw [hexec, mutate_rmwTwice_of_addresses ha hl, hw1, hw2]

/-! ### Setting and clearing a field (20_memory.md R58) -/

theorem fieldUpdate_self (t mask : Word) : fieldUpdate t mask mask = t ||| mask := by
  ext k hk
  cases hm : mask[k] <;> simp [getElem_fieldUpdate, hm]

theorem fieldUpdate_zero (t mask : Word) : fieldUpdate t mask 0#32 = t &&& ~~~mask := by
  simp [fieldUpdate]

/-! ### The four direction operations (42_direction.md R131 to R134) -/

/-- Settles O28: both fields are set, so the words collect the two masks. -/
theorem selectInputMeaning : Obligations.SelectInputMeaning :=
  twoCycleMeaning_of_rmwTwice (i := .selectInput) (w1 := (· ||| 0x00040000#32)) (w2 := (· ||| 0x00240000#32))
    (by decide) (fun _ _ => rfl) (fun _ _ => Op.noConfusion) (fun _ _ _ => rfl)
    (fun t => fieldUpdate_self t maskInEn)
    (fun t => (fieldUpdate_self _ maskOutEnN).trans (BitVec.or_assoc t maskInEn maskOutEnN))

/-- Settles O29: both fields are cleared. -/
theorem selectOutputMeaning : Obligations.SelectOutputMeaning :=
  twoCycleMeaning_of_rmwTwice (i := .selectOutput) (w1 := (· &&& 0xFFFBFFFF#32)) (w2 := (· &&& 0xFFDBFFFF#32))
    (by decide) (fun _ _ => rfl) (fun _ _ => Op.noConfusion) (fun _ _ _ => rfl)
    (fun t => fieldUpdate_zero t maskInEn)
    (fun t => (fieldUpdate_zero _ maskOutEnN).trans (BitVec.and_assoc t (~~~maskInEn) (~~~maskOutEnN)))

/-- Settles O30: the second cycle clears another bit than the first one set, so it may be read as done before it. -/
theorem selectInoutMeaning : Obligations.SelectInoutMeaning := by
  have hswap (t : Word) : fieldUpdate (t ||| maskInEn) maskOutEnN 0#32 = (t &&& ~~~maskOutEnN) ||| maskInEn := by
    rw [← fieldUpdate_self, fieldUpdate_comm (by decide), fieldUpdate_self, fieldUpdate_zero]
  exact twoCycleMeaning_of_rmwTwice (i := .selectInout) (w1 := (· ||| 0x00040000#32))
    (w2 := fun t => (t &&& 0xFFDFFFFF#32) ||| 0x00040000#32)
    (by decide) (fun _ _ => rfl) (fun _ _ => Op.noConfusion) (fun _ _ _ => rfl)
    (fun t => fieldUpdate_self t maskInEn) hswap

/-- Settles O31: the first cycle clears its field, the second one sets its own. -/
theorem selectHizMeaning : Obligations.SelectHizMeaning :=
  twoCycleMeaning_of_rmwTwice (i := .selectHiz) (w1 := (· &&& 0xFFFBFFFF#32))
    (w2 := fun t => (t &&& 0xFFFBFFFF#32) ||| 0x00200000#32)
    (by decide) (fun _ _ => rfl) (fun _ _ => Op.noConfusion) (fun _ _ _ => rfl)
    (fun t => fieldUpdate_zero t maskInEn) (fun t => fieldUpdate_self _ maskOutEnN)

/-! ### The direction bits (10_state.md R30, 42_direction.md R135) -/

/-- The operation that selects a direction. -/
def selectDirection (d : Direction) (dom : BitVec 8) (pin : BitVec 16) : Instr :=
  match d with
  | .input => .selectInput dom pin
  | .output => .selectOutput dom pin
  | .inout => .selectInout dom pin
  | .hiz => .selectHiz dom pin

/-- The two direction bits of a direction, in their places in the register word. -/
def directionBits : Direction → Word
  | .input => 0x00240000#32
  | .output => 0x00000000#32
  | .inout => 0x00040000#32
  | .hiz => 0x00200000#32

/-- A direction operation leaves in the register one update of both direction bits. -/
theorem exec_selectDirection_of_addresses {dom : BitVec 8} {pin : BitVec 16} {a : PinAddr} {s : State}
    (ha : addresses dom pin a) (hl : s.life = .initialized) (d : Direction) :
    ∃ t, exec (selectDirection d dom pin) s = .next t ∧
      readPad t.pads a = fieldUpdate (readPad s.pads a) (maskInEn ||| maskOutEnN) (directionBits d) := by
  have hword (v1 v2 : Word) : readPad (mutate dom pin (rmwTwice maskInEn v1 maskOutEnN v2) s).pads a =
      fieldUpdate (readPad s.pads a) (maskInEn ||| maskOutEnN) (fieldUpdate v1 maskOutEnN v2) := by
    rw [mutate_rmwTwice_of_addresses ha hl, readPad_afterTwoCycles, fieldUpdate_fieldUpdate]
  cases d <;> exact ⟨_, rfl, hword _ _⟩

/-- An update of both direction bits leaves the bits, and so the direction, it was given. -/
theorem fieldUpdate_directionBits (t : Word) (d : Direction) :
    (fieldUpdate t (maskInEn ||| maskOutEnN) (directionBits d)).getLsbD 18 = (directionBits d).getLsbD 18 ∧
      (fieldUpdate t (maskInEn ||| maskOutEnN) (directionBits d)).getLsbD 21 = (directionBits d).getLsbD 21 ∧
      directionOf (fieldUpdate t (maskInEn ||| maskOutEnN) (directionBits d)) = d := by
  have hmask := fieldUpdate_and_mask t (maskInEn ||| maskOutEnN) (directionBits d)
  refine ⟨getLsbD_eq_of_and_eq hmask (by decide), getLsbD_eq_of_and_eq hmask (by decide), ?_⟩
  calc directionOf (fieldUpdate t (maskInEn ||| maskOutEnN) (directionBits d))
      = directionOf (directionBits d) := directionOf_of_and hmask
    _ = d := by cases d <;> rfl

/-- Settles O32: the table gives each direction's bits, the word after the operation is an update of those two bits, and a
selection issued twice leaves the pads as the first issue left them. -/
theorem directionProperties : Obligations.DirectionProperties := by
  intro s dom pin a ha hl i r hir
  obtain ⟨rfl, hin, hout⟩ : i = selectDirection r.1 dom pin ∧ (directionBits r.1).getLsbD 18 = r.2.1 ∧
      (directionBits r.1).getLsbD 21 = r.2.2 := by
    simp only [List.mem_cons, List.not_mem_nil, or_false, Prod.mk.injEq] at hir
    rcases hir with ⟨rfl, rfl⟩ | ⟨rfl, rfl⟩ | ⟨rfl, rfl⟩ | ⟨rfl, rfl⟩ <;> exact ⟨rfl, rfl, rfl⟩
  have hsel : isSelect (selectDirection r.1 dom pin) = true := by cases r.1 <;> rfl
  obtain ⟨t, ht, hread⟩ := exec_selectDirection_of_addresses ha hl r.1
  obtain ⟨t', u, ht', hu, hpads⟩ := selectIdempotent _ s hsel
  rw [ht] at ht'
  cases ht'
  obtain ⟨hbit18, hbit21, hdir⟩ := fieldUpdate_directionBits (readPad s.pads a) r.1
  rw [← hread] at hbit18 hbit21 hdir
  refine ⟨t, ht, ?_, hbit18.trans hin, hbit21.trans hout, hdir, u, hu, hpads⟩
  rw [hread]
  exact fieldUpdate_and_not_mask _ (maskInEn ||| maskOutEnN) _

end Sys2Proof.Machine

/-! SUPPORT. The pull family: the three pull operations as commands of two cycles and of one, and what they leave in the
pull bits. -/

namespace Sys2Proof.Machine

open Sys2Proof

/-! ### The three pull operations (43_pull.md R141 to R143) -/

/-- Settles O33: the first cycle clears `PULL_EN_N`, the second one sets `PULL_SEL`. -/
theorem selectPullUpMeaning : Obligations.SelectPullUpMeaning :=
  twoCycleMeaning_of_rmwTwice (i := .selectPullUp) (w1 := (· &&& 0xFFFEFFFF#32))
    (w2 := fun t => (t &&& 0xFFFEFFFF#32) ||| 0x00020000#32)
    (by decide) (fun _ _ => rfl) (fun _ _ => Op.noConfusion) (fun _ _ _ => rfl)
    (fun t => fieldUpdate_zero t maskPullEnN) (fun t => fieldUpdate_self _ maskPullSel)

/-- Settles O34: both fields are cleared, so the words collect the two masks. -/
theorem selectPullDownMeaning : Obligations.SelectPullDownMeaning :=
  twoCycleMeaning_of_rmwTwice (i := .selectPullDown) (w1 := (· &&& 0xFFFEFFFF#32)) (w2 := (· &&& 0xFFFCFFFF#32))
    (by decide) (fun _ _ => rfl) (fun _ _ => Op.noConfusion) (fun _ _ _ => rfl)
    (fun t => fieldUpdate_zero t maskPullEnN)
    (fun t => (fieldUpdate_zero _ maskPullSel).trans (BitVec.and_assoc t (~~~maskPullEnN) (~~~maskPullSel)))

/-- SELECT_PULL_DISABLE on a valid address sets `PULL_EN_N` in the word it reads, in one cycle. -/
theorem exec_selectPullDisable_of_addresses {dom : BitVec 8} {pin : BitVec 16} {a : PinAddr} {s : State}
    (ha : addresses dom pin a) (hl : s.life = .initialized) :
    exec (.selectPullDisable dom pin) s = .next (afterCycle s a (readPad s.pads a ||| maskPullEnN)) := by
  rw [← fieldUpdate_self]
  exact congrArg _ (mutate_rmw_of_addresses ha hl maskPullEnN maskPullEnN)

/-- Settles O35: the one cycle sets a field, which leaves every bit outside it, `PULL_SEL` among them. -/
theorem selectPullDisableMeaning : Obligations.SelectPullDisableMeaning :=
  ⟨fun dom pin wd => decode_encode_cmd (i := .selectPullDisable dom pin) Op.noConfusion wd,
    rejectsFunctionField_of_four_le (by decide),
    fun _ _ => answersFailedChecks_of_pinCommand fun _ => rfl,
    fun _ _ _ _ ha hl => exec_selectPullDisable_of_addresses ha hl⟩

/-! ### The pull bits (10_state.md R31, 43_pull.md R144) -/

/-- Two cycles on a valid address leave in the register one update of both fields. -/
theorem readPad_mutate_rmwTwice {dom : BitVec 8} {pin : BitVec 16} {a : PinAddr} {s : State}
    (ha : addresses dom pin a) (hl : s.life = .initialized) (m1 v1 m2 v2 : Word) :
    readPad (mutate dom pin (rmwTwice m1 v1 m2 v2) s).pads a =
      fieldUpdate (readPad s.pads a) (m1 ||| m2) (fieldUpdate v1 m2 v2) := by
  rw [mutate_rmwTwice_of_addresses ha hl, readPad_afterTwoCycles, fieldUpdate_fieldUpdate]

/-- A selection that led to `t` leaves the pads of `t` when it is issued again. -/
theorem exec_select_again {i : Instr} {s t : State} (hsel : isSelect i = true) (ht : exec i s = .next t) :
    ∃ u, exec i t = .next u ∧ u.pads = t.pads := by
  obtain ⟨t', u, ht', hu, hpads⟩ := selectIdempotent i s hsel
  rw [ht] at ht'
  cases ht'
  exact ⟨u, hu, hpads⟩

/-- An update of both pull bits keeps the other bits and leaves the pull bits, and so the pull state, it was given. -/
theorem fieldUpdate_pullBits (t val : Word) :
    fieldUpdate t (maskPullEnN ||| maskPullSel) val &&& 0xFFFCFFFF#32 = t &&& 0xFFFCFFFF#32 ∧
      (fieldUpdate t (maskPullEnN ||| maskPullSel) val).getLsbD 16 = val.getLsbD 16 ∧
      (fieldUpdate t (maskPullEnN ||| maskPullSel) val).getLsbD 17 = val.getLsbD 17 ∧
      pullOf (fieldUpdate t (maskPullEnN ||| maskPullSel) val) = pullOf val := by
  have hmask := fieldUpdate_and_mask t (maskPullEnN ||| maskPullSel) val
  exact ⟨fieldUpdate_and_not_mask t (maskPullEnN ||| maskPullSel) val, getLsbD_eq_of_and_eq hmask (by decide),
    getLsbD_eq_of_and_eq hmask (by decide), pullOf_of_and hmask⟩

/-- Setting `PULL_EN_N` keeps every other bit, sets bit 16, and decodes as disabled. -/
theorem or_maskPullEnN (t : Word) :
    (t ||| maskPullEnN) &&& 0xFFFEFFFF#32 = t &&& 0xFFFEFFFF#32 ∧ (t ||| maskPullEnN).getLsbD 16 = true ∧
      pullOf (t ||| maskPullEnN) = .disabled := by
  have hbit : (t ||| maskPullEnN).getLsbD 16 = true := by simp [maskPullEnN]
  refine ⟨?_, hbit, pullOf_disabled hbit⟩
  rw [← fieldUpdate_self]
  exact fieldUpdate_and_not_mask t maskPullEnN maskPullEnN

/-- Settles O36: pull-up and pull-down update both pull bits, pull-disable sets bit 16 alone, so after a pull-up it
leaves bit 17 set; a selection issued twice leaves the pads as the first issue left them. -/
theorem pullProperties : Obligations.PullProperties := by
  intro s dom pin a ha hl
  refine ⟨fun i r hir => ?_, ?_, ?_⟩
  · obtain ⟨val, hsel, ⟨t, ht, hread⟩, h16, h17, hpull⟩ : ∃ val, isSelect i = true ∧
        (∃ t, exec i s = .next t ∧
          readPad t.pads a = fieldUpdate (readPad s.pads a) (maskPullEnN ||| maskPullSel) val) ∧
        val.getLsbD 16 = false ∧ val.getLsbD 17 = r.2 ∧ pullOf val = r.1 := by
      simp only [List.mem_cons, List.not_mem_nil, or_false, Prod.mk.injEq] at hir
      rcases hir with ⟨rfl, rfl⟩ | ⟨rfl, rfl⟩ <;>
        exact ⟨_, rfl, ⟨_, rfl, readPad_mutate_rmwTwice ha hl _ _ _ _⟩, rfl, rfl, rfl⟩
    obtain ⟨hkeep, hbit16, hbit17, hstate⟩ := fieldUpdate_pullBits (readPad s.pads a) val
    rw [← hread] at hkeep hbit16 hbit17 hstate
    exact ⟨t, ht, hkeep, hbit16.trans h16, hbit17.trans h17, hstate.trans hpull, exec_select_again hsel ht⟩
  · obtain ⟨hkeep, hbit, hpull⟩ := or_maskPullEnN (readPad s.pads a)
    have ht := exec_selectPullDisable_of_addresses ha hl
    rw [← readPad_afterCycle s a (readPad s.pads a ||| maskPullEnN)] at hkeep hbit hpull
    exact ⟨_, ht, hkeep, hbit, hpull, exec_select_again rfl ht⟩
  · obtain ⟨-, -, -, hup⟩ := selectPullUpMeaning
    refine ⟨_, _, hup s dom pin a ha hl, exec_selectPullDisable_of_addresses ha hl, ?_, ?_⟩ <;>
      simp [readPad_afterCycle, readPad_afterTwoCycles, maskPullEnN]

end Sys2Proof.Machine

/-! SUPPORT. The raw-access family: GET_RAW and SET_RAW on a valid address, the one after the other, and the sentinel. -/

namespace Sys2Proof.Machine

open Sys2Proof

/-! ### GET_RAW (44_raw_access.md R150) -/

/-- GET_RAW of a valid address in Initialized reads the register once and answers the whole word. -/
theorem exec_getRaw_of_addresses {dom : BitVec 8} {pin : BitVec 16} {a : PinAddr} {s : State}
    (ha : addresses dom pin a) (hl : s.life = .initialized) :
    exec (.getRaw dom pin) s = .next (afterRead s a (readPad s.pads a)) := by
  simp [exec, execGetRaw, pinCommand, (checks_eq_passed dom pin s a).2 ⟨hl, ha⟩, respondData, respond, afterRead]

/-- The failing checks of GET_RAW: the sentinel is its soft answer. -/
theorem answersFailedChecks_getRaw (dom : BitVec 8) (pin : BitVec 16) :
    answersFailedChecks (.getRaw dom pin) dom pin (some sentinel) :=
  answersFailedChecks_of_pinCommand fun _ => rfl

/-- Settles O39: the word is the operation's encoding, and the command is one read behind the checks. -/
theorem getRawMeaning : Obligations.GetRawMeaning :=
  ⟨fun dom pin wd => decode_encode_cmd (i := .getRaw dom pin) Op.noConfusion wd,
    rejectsFunctionField_of_four_le (by decide),
    answersFailedChecks_getRaw,
    fun _ _ _ _ ha hl => exec_getRaw_of_addresses ha hl⟩

/-! ### SET_RAW (44_raw_access.md R151) -/

/-- SET_RAW of a valid address in Initialized writes the register once, without a read, and answers OK. -/
theorem exec_setRaw_of_addresses {dom : BitVec 8} {pin : BitVec 16} {a : PinAddr} {s : State}
    (ha : addresses dom pin a) (hl : s.life = .initialized) (v : Word) :
    exec (.setRaw dom pin v) s = .next (respondOk (regWrite a v s)) :=
  congrArg _ (mutate_of_addresses ha hl fun b => regWrite b v)

/-- Settles O40: the word is the operation's encoding, and the command is one write behind the checks. -/
theorem setRawMeaning : Obligations.SetRawMeaning := by
  refine ⟨fun dom pin v => decodeEncodeRoundTrip (.setRaw dom pin v), rejectsFunctionField_of_four_le (by decide),
    fun _ _ _ => answersFailedChecks_of_pinCommand fun _ => rfl, fun s dom pin v a ha hl => ?_⟩
  exact ⟨_, exec_setRaw_of_addresses ha hl v, readPad_writePad_same s.pads a v,
    fun b hb => readPad_writePad_other s.pads a b v hb, rfl, rfl, ⟨rfl, rfl, rfl, rfl, rfl⟩, ⟨rfl, rfl, rfl, rfl⟩⟩

/-! ### The two together (44_raw_access.md R152), and the sentinel (R153) -/

/-- Settles O41: the read finds the register as the write left it. -/
theorem setThenGetReturnsWord : Obligations.SetThenGetReturnsWord := by
  intro s dom pin v a ha hl
  let t := respondOk (regWrite a v s)
  have hread : readPad t.pads a = v := readPad_writePad_same s.pads a v
  have hget : exec (.getRaw dom pin) t = .next (afterRead t a v) :=
    (exec_getRaw_of_addresses ha (s := t) hl).trans (by rw [hread])
  exact ⟨t, _, exec_setRaw_of_addresses ha hl v, hget, rfl⟩

/-- Settles O42: both commands append the response OK with all ones, the one from the register, the other as sentinel. -/
theorem sentinelAmbiguous : Obligations.SentinelAmbiguous := by
  intro s dom dom' pin pin' a ha hl hs hdom' hones
  obtain ⟨hinvalid, -⟩ := answersFailedChecks_getRaw dom' pin' s
  refine ⟨_, _, exec_getRaw_of_addresses ha hl, hinvalid hdom' hs, ?_⟩
  rw [hones]
  rfl

end Sys2Proof.Machine

/-! SUPPORT. The dump family: where the fields of a record stand in the word DUMP answers, and DUMP as one read behind the
checks. -/

namespace Sys2Proof.Machine

open Sys2Proof

/-! ### The fields of a dump word (45_dump.md R163) -/

/-- Shifting a word down and keeping two bits reads the 2-bit field at that place. -/
theorem ushiftRight_and_three (w : Word) (k : Nat) : w >>> k &&& 3#32 = 0#30 ++ w.extractLsb' k 2 := by
  rw [← BitVec.setWidth_ushiftRight_eq_extractLsb]
  exact BitVec.and_setWidth_allOnes 30 2 (w >>> k)

theorem extractLsb'_dumpWord_dir (r : DumpRecord) : (dumpWord r).extractLsb' 4 2 = directionCode r.dir := by
  rw [dumpWord, BitVec.extractLsb'_append_eq_of_le (by omega)]
  exact BitVec.extractLsb'_append_eq_right

theorem extractLsb'_dumpWord_pull (r : DumpRecord) : (dumpWord r).extractLsb' 6 2 = pullCode r.pull := by
  rw [dumpWord, BitVec.extractLsb'_append_eq_of_le (by omega), BitVec.extractLsb'_append_eq_of_le (by omega)]
  exact BitVec.extractLsb'_append_eq_right

theorem extractLsb'_dumpWord_high (r : DumpRecord) : (dumpWord r).extractLsb' 8 24 = 0#24 := by
  rw [dumpWord, BitVec.extractLsb'_append_eq_of_le (by omega), BitVec.extractLsb'_append_eq_of_le (by omega)]
  exact BitVec.extractLsb'_append_eq_left

/-- Settles O45: each field is read back from its place, and the codes are compared one direction and one pull state at a
time. -/
theorem dumpRecordEncoding : Obligations.DumpRecordEncoding := by
  intro r
  refine ⟨BitVec.setWidth_append_eq_right, ?_, ?_, ?_⟩
  · rw [ushiftRight_and_three, extractLsb'_dumpWord_dir]
    cases r.dir <;> rfl
  · rw [ushiftRight_and_three, extractLsb'_dumpWord_pull]
    cases r.pull <;> rfl
  · rw [BitVec.ushiftRight_eq_extractLsb'_of_lt (by omega), extractLsb'_dumpWord_high]
    rfl

/-! ### DUMP (45_dump.md R160) -/

/-- Settles O43: the word is the operation's encoding, and the command is one read behind the checks. -/
theorem dumpMeaning : Obligations.DumpMeaning := by
  refine ⟨fun dom pin wd => decode_encode_cmd (i := .dump dom pin) Op.noConfusion wd,
    rejectsFunctionField_of_four_le (by decide),
    fun _ _ => answersFailedChecks_of_pinCommand fun _ => rfl, fun s dom pin a ha hl => ?_⟩
  rw [exec_dump_of_addresses ha hl, dumpRecord, BitVec.setWidth_eq_extractLsb' (by omega)]

end Sys2Proof.Machine

/-! SUPPORT. The exceptions family: what all eleven pin commands answer to a failing check, and that no command stops the
machine. -/

namespace Sys2Proof.Machine

open Sys2Proof

/-! ### The failing checks of every pin command (60_exceptions.md R172 to R174) -/

/-- Every pin command answers its failing checks alike, with the sentinel as soft answer of GET_RAW alone. -/
theorem exec_pin_answersFailedChecks {i : Instr} {dom : BitVec 8} {pin : BitVec 16}
    (hi : i.pinOperands = some (dom, pin)) :
    ∃ soft, answersFailedChecks i dom pin soft ∧
      ((soft = none ∧ i ≠ .getRaw dom pin) ∨ (soft = some sentinel ∧ i = .getRaw dom pin)) := by
  obtain ⟨soft, _, hexec, hsoft, -⟩ := exec_pin_form i dom pin hi
  exact ⟨soft, answersFailedChecks_of_pinCommand hexec, hsoft⟩

/-- Settles O15: the domain is the first check, so the lifecycle state and the pin-index do not enter. -/
theorem invalidDomainPolicy : Obligations.InvalidDomainPolicy := by
  refine ⟨rfl, fun i dom pin s hi hdom => ?_⟩
  obtain ⟨soft, hfail, hsoft⟩ := exec_pin_answersFailedChecks hi
  obtain ⟨hdefault, hstrict, -⟩ := hfail s
  rcases hsoft with ⟨rfl, hne⟩ | ⟨rfl, heq⟩
  · exact ⟨fun hs _ => hdefault hdom hs, fun _ h => absurd h hne, hstrict hdom⟩
  · exact ⟨fun _ h => absurd heq h, fun hs _ => hdefault hdom hs, hstrict hdom⟩

/-- Settles O16: the lifecycle check comes before the pin bound, so the pin-index does not enter. -/
theorem notInitializedRejects : Obligations.NotInitializedRejects := by
  refine ⟨rfl, fun i dom pin s hi hdom hl => ?_⟩
  obtain ⟨_, hfail, -⟩ := exec_pin_answersFailedChecks hi
  obtain ⟨-, -, hreject, -⟩ := hfail s
  exact hreject hdom hl

/-- Settles O17: the pin bound fails, and its answer does not look at `STRICT_DOMAIN`. -/
theorem pinOutOfRange : Obligations.PinOutOfRange := by
  refine ⟨rfl, fun i dom pin s hi hl hpin => ?_⟩
  obtain ⟨d, hdom, hle⟩ := (exceedsCount_iff dom pin).2 hpin
  obtain ⟨_, hfail, -⟩ := exec_pin_answersFailedChecks hi
  obtain ⟨-, -, -, hrange⟩ := hfail s
  exact hrange d hdom hl hle

/-! ### No command stops the machine (60_exceptions.md R178) -/

theorem exec_completes (i : Instr) (s : State) : ∃ t, exec i s = .next t := by
  obtain ⟨t, _, he, -⟩ := exec_answersOnce i s
  exact ⟨t, he⟩

/-- Settles O11: a step is idle, answers an illegal word, or runs an instruction. -/
theorem everyCommandCompletes : Obligations.EveryCommandCompletes := by
  refine ⟨fun s => ?_, exec_completes⟩
  rcases step_cases s with ⟨-, hs⟩ | ⟨_, _, _, -, -, hs⟩ | ⟨_, rest, i, -, -, hs⟩ <;> rw [hs]
  · exact ⟨_, rfl⟩
  · exact ⟨_, rfl⟩
  · exact exec_completes i { s with host := rest }

end Sys2Proof.Machine

/-! SUPPORT. The reset family: the control state and the pad registers after reset, of a fresh instance and of the block in
any state, and the step with no command presented. -/

namespace Sys2Proof.Machine

open Sys2Proof

/-! ### The control state after reset (70_reset_and_hazards.md R200) -/

theorem controlReset_reset : controlReset State.reset := ⟨rfl, rfl, rfl, rfl⟩

/-- A reset of the block leaves the reset control state, whatever was held. -/
theorem controlReset_blockReset (s : State) : controlReset (blockReset s) := ⟨rfl, rfl, rfl, rfl⟩

/-- In the reset control state either domain's window is the one with nothing mapped. -/
theorem window_of_controlReset {s : State} (hs : controlReset s) (d : Domain) : window s d = Window.none := by
  obtain ⟨-, -, hmain, hwakeup⟩ := hs
  cases d
  · exact hmain
  · exact hwakeup

@[simp] theorem blockReset_access (s : State) : (blockReset s).access = [] := rfl
@[simp] theorem blockReset_resource (s : State) : (blockReset s).resource = [] := rfl
@[simp] theorem blockReset_pads (s : State) : (blockReset s).pads = s.pads := rfl

/-- Settles O1: a fresh instance and a reset block are both in the reset control state, which leaves no window mapped. -/
theorem resetControlState : Obligations.ResetControlState := by
  have hnone := window_of_controlReset controlReset_reset
  obtain ⟨hlife, hopen, -, -⟩ := controlReset_reset
  refine ⟨hlife, hopen, ?_, ?_, fun d => ?_, rfl, rfl,
    fun s => ⟨controlReset_blockReset s, blockReset_access s, blockReset_resource s⟩⟩
  · rw [hnone]; rfl
  · rw [hnone]; rfl
  · rw [hnone]; exact ⟨rfl, rfl⟩

/-! ### The pad registers after reset (70_reset_and_hazards.md R201) -/

/-- Settles O2: the fresh pads are the launch argument register by register, and a reset of the block keeps the pads. -/
theorem resetPadContents : Obligations.ResetPadContents :=
  ⟨readPad_reset, fun s a => by rw [blockReset_pads]⟩

/-! ### No command presented (70_reset_and_hazards.md R202) -/

/-- Settles O10: of the three things a step can do, the two that are not idle take a command from the host. -/
theorem nothingPresentedNothingExecuted : Obligations.NothingPresentedNothingExecuted := by
  intro s hnil
  rcases step_cases s with ⟨-, hidle⟩ | ⟨_, _, _, hcons, -, -⟩ | ⟨_, _, _, hcons, -, -⟩
  · exact hidle
  · cases hnil.symm.trans hcons
  · cases hnil.symm.trans hcons

end Sys2Proof.Machine
